-- ==== Sys2Proof/Word.lean ====
section
/-! DEFINITION. The three widths of the spec: bytes on the wire and in the stream, 16-bit operands,
registers and controller addresses (spec 00_scope R10, COORD_BITS), and the 32-bit LEN field. -/

namespace Sys2Proof

/-- A byte of the descriptor stream, of the Transfer Buffer or of a transfer. -/
abbrev Byte := BitVec 8

/-- A 16-bit operand field, register, controller coordinate or pixel. -/
abbrev Half := BitVec 16

/-- The 32-bit `LEN` field of a descriptor. -/
abbrev Word32 := BitVec 32

end Sys2Proof
end

