-- ==== Sys2Proof/Config.lean ====
section
/-! DEFINITION. The implementation parameters of spec 00_scope R10: those the spec gives a value are named
constants, those it gives a general-knowledge default alone are an argument (`Params`). Then the values the
spec leaves open, as opaque constants (R11, 20_memory R65, 47_surrounding_software R192). -/

namespace Sys2Proof

/-- The parameters of 00_scope R10 that are "a default only: the model takes the parameter as an argument" (ground
GK, decisions D5, D7, D28). A machine has one value of it, which no step changes (log entry 29); the defaults
are R10's, PRESUMED (log entries 12 and 15). -/
structure Params where
  /-- `CMD_SWRESET` to `CMD_COLMOD`: the panel's command bytes. -/
  cmdSwreset : Byte := 0x01#8
  cmdSlpout : Byte := 0x11#8
  cmdNoron : Byte := 0x13#8
  cmdInvoff : Byte := 0x20#8
  cmdInvon : Byte := 0x21#8
  cmdDispoff : Byte := 0x28#8
  cmdDispon : Byte := 0x29#8
  cmdCaset : Byte := 0x2A#8
  cmdRaset : Byte := 0x2B#8
  cmdRamwr : Byte := 0x2C#8
  cmdVscrdef : Byte := 0x33#8
  cmdMadctl : Byte := 0x36#8
  cmdVscrsadd : Byte := 0x37#8
  cmdColmod : Byte := 0x3A#8
  /-- `COLMOD_16BPP`: the pixel-format byte meaning 16 bits per pixel. -/
  colmod16bpp : Byte := 0x55#8
  /-- `PANEL_COLS`, `PANEL_ROWS`: size of the controller's frame memory (reference sink only). -/
  panelCols : Nat := 240
  panelRows : Nat := 320
  deriving DecidableEq, Repr

/-- The fourteen command bytes, in the order of the table of R10. -/
def Params.commands (cfg : Params) : List Byte :=
  [cfg.cmdSwreset, cfg.cmdSlpout, cfg.cmdNoron, cfg.cmdInvoff, cfg.cmdInvon, cfg.cmdDispoff, cfg.cmdDispon,
   cfg.cmdCaset, cfg.cmdRaset, cfg.cmdRamwr, cfg.cmdVscrdef, cfg.cmdMadctl, cfg.cmdVscrsadd, cfg.cmdColmod]

/-- No two commands share a byte: a premise of the claims that tell commands apart (log entry 29). -/
def Params.Distinct (cfg : Params) : Prop := cfg.commands.Nodup

end Sys2Proof

namespace Sys2Proof.Config

/-! ### Geometry (R10, section 3 of the document) -/

/-- Number of orientation modes. -/
def nModes : Nat := 8

/-- Frame Window of modes 0 to 3: origin-x, width, origin-y, height. -/
def landOx : Half := 35#16
def landW : Half := 170#16
def landOy : Half := 0#16
def landH : Half := 320#16

/-- Frame Window of modes 4 to 7: origin-x, width, origin-y, height. -/
def portOx : Half := 0#16
def portW : Half := 320#16
def portOy : Half := 35#16
def portH : Half := 170#16

/-! ### The Transfer Buffer and the delays -/

/-- Capacity of the Transfer Buffer in bytes. -/
def tbufSize : Nat := 256

/-- Bytes per pixel on the wire (RGB565). -/
def bytesPerPixel : Nat := 2

/-- How many pixels the Transfer Buffer holds. -/
def tbufPixels : Nat := tbufSize / bytesPerPixel

/-- Sizes of the Glyph Packer's two output buffers in bytes (47_surrounding_software R197). -/
def glyphBuffer8 : Nat := 128
def glyphBuffer16 : Nat := 256

/-- Milliseconds after each transition of the reset line. DESIGN CHOICE of the spec, log entry 17. -/
def tRst : Nat := 1

/-- Milliseconds after the software reset. DESIGN CHOICE of the spec, log entry 17. -/
def tSwreset : Nat := 150

/-- Milliseconds after sleep-out. DESIGN CHOICE of the spec, log entry 17. -/
def tSlpout : Nat := 10

/-- The colour black, all components zero (20_memory R52). -/
def black : Half := 0x0000#16

/-! ### Open values: nothing is known of them -/

/-- `MADCTL_TABLE` of R11: the memory-access-control byte of each mode. It has no default and nothing may
be assumed about it (log entry 16). -/
opaque madctlTable : Fin nModes → Byte

/-- FREE VALUE: what the panel's window registers and write pointer hold after a software reset, one
value per draw (20_memory R65, log entry 11). -/
opaque freePanelWord : Nat → Half

/-- `ARC_IN` of 47_surrounding_software R192: whether the offset `(ox, oy)` lies in the angle range
`alpha1` to `alpha2`. It rests on floating-point functions, so nothing is assumed (log entry 24). R190 to R192 give the
angles in degrees and no type: that they are whole degrees is the model's choice (DESIGN CHOICE, log entry 24). -/
opaque arcIn (ox oy alpha1 alpha2 : Int) : Bool

/-- The cursor step of 8-pixel-wide fonts, which the spec does not give (47_surrounding_software R202, log
entry 24). -/
opaque narrowFontStep : Nat

end Sys2Proof.Config
end

