-- ==== Sys2Proof/Syntax.lean ====
section
/-! DEFINITION. The instruction set, whole: one constructor per row of spec/opcode_table.json. The ten
operations of the descriptor port (spec 30_encoding R85) come first, then the fourteen wire commands the
panel executes (R88, 40_transport_sequencer R120 to R133). -/

namespace Sys2Proof

/-- An instruction. Operand fields are kept as the raw bits of the descriptor; each operation interprets
them (30_encoding R82). A wire command has no operand: its parameters are data bytes that follow it. -/
inductive Instr where
  /-- `INIT mode`, OP 0x01 (41_panel_control R140). -/
  | init (mode : Half)
  /-- `SET_MODE mode`, OP 0x02 (41_panel_control R142). -/
  | setMode (mode : Half)
  /-- `SET_WINDOW x0, y0, x1, y1`, OP 0x03 (42_pixel_region R151). -/
  | setWindow (x0 y0 x1 y1 : Half)
  /-- `BLIT x, y, w, h, {payload}`, OP 0x04 (42_pixel_region R153): `len` is the LEN field, `payload` the bytes
  that follow the descriptor in the stream (30_encoding R84). -/
  | blit (x y w h : Half) (len : Word32) (payload : List Byte)
  /-- `FILL_RECT x, y, w, h, color`, OP 0x05 (42_pixel_region R156). -/
  | fillRect (x y w h color : Half)
  /-- `PIXEL x, y, color`, OP 0x06 (42_pixel_region R157). -/
  | pixel (x y color : Half)
  /-- `CLEAR color`, OP 0x07 (42_pixel_region R158). -/
  | clear (color : Half)
  /-- `LINE x0, y0, x1, y1, color`, OP 0x08 (43_rasterizer R171). -/
  | line (x0 y0 x1 y1 color : Half)
  /-- `CIRCLE xc, yc, r, color`, OP 0x09 (43_rasterizer R174). -/
  | circle (xc yc r color : Half)
  /-- `BACKLIGHT on`, OP 0x0A (40_transport_sequencer R119): only bit 0 of A0 is read. -/
  | backlight (on : Bool)
  /-- software-reset (R120). -/
  | swreset
  /-- sleep-out (R121). -/
  | slpout
  /-- normal-display-on (R122). -/
  | noron
  /-- inversion-off (R123). -/
  | invoff
  /-- inversion-on (R124). -/
  | invon
  /-- display-off (R125). -/
  | dispoff
  /-- display-on (R126). -/
  | dispon
  /-- column-address-set (R127). -/
  | caset
  /-- row-address-set (R128). -/
  | raset
  /-- memory-write (R129). -/
  | ramwr
  /-- vertical-scroll-define (R130). -/
  | vscrdef
  /-- memory-access-control (R131). -/
  | madctl
  /-- vertical-scroll-address (R132). -/
  | vscrsadd
  /-- pixel-format-set (R133). -/
  | colmod
  deriving DecidableEq, Repr

/-- The two encodings of spec 30_encoding: the 128-bit descriptor and the command byte on the wire. -/
inductive Format where
  | desc128
  | wire8
  deriving DecidableEq, Repr

/-- Which encoding an instruction has: the column "format" of spec/opcode_table.json. -/
def Instr.format : Instr → Format
  | .init _ | .setMode _ | .setWindow .. | .blit .. | .fillRect .. | .pixel .. | .clear _ | .line ..
  | .circle .. | .backlight _ => .desc128
  | .swreset | .slpout | .noron | .invoff | .invon | .dispoff | .dispon | .caset | .raset | .ramwr
  | .vscrdef | .madctl | .vscrsadd | .colmod => .wire8

end Sys2Proof
end

