-- ==== Sys2Proof/WellFormed.lean ====
section
/-! DEFINITION. Which instructions are well formed. Every operand is as wide as its field by its type, so one
check remains: a BLIT carries exactly the LEN payload bytes it announces (spec 30_encoding R84). -/

namespace Sys2Proof

/-- BLIT owns exactly `LEN` payload bytes; every other instruction is well formed as it stands. -/
def Instr.wf : Instr → Bool
  | .blit _ _ _ _ len payload => payload.length == len.toNat
  | .init _ | .setMode _ | .setWindow .. | .fillRect .. | .pixel .. | .clear _ | .line ..
  | .circle .. | .backlight _ => true
  | .swreset | .slpout | .noron | .invoff | .invon | .dispoff | .dispon | .caset | .raset | .ramwr
  | .vscrdef | .madctl | .vscrsadd | .colmod => true

end Sys2Proof
end

