-- ==== Sys2Proof/Decode.lean ====
section
/-! DEFINITION. The decoder, total on any bytes and rejecting by name, and after it the encoder, both from the
tables of spec 30_encoding (R81, R84, R85, R86, R88). -/

namespace Sys2Proof

/-! ### Descriptor fields -/

/-- The fields of a 128-bit descriptor, format DESC128 (30_encoding R81). -/
structure Desc where
  op : Byte
  rsv : Byte := 0#8
  a0 : Half := 0#16
  a1 : Half := 0#16
  a2 : Half := 0#16
  a3 : Half := 0#16
  color : Half := 0#16
  len : Word32 := 0#32
  deriving DecidableEq, Repr

/-- A 16-bit field from its two stream bytes, least significant first (20_memory R54). -/
def le16 (b0 b1 : Byte) : Half := b1 ++ b0

/-- The 32-bit LEN field from its four stream bytes, least significant first (20_memory R54). -/
def le32 (b0 b1 b2 b3 : Byte) : Word32 := (b3 ++ b2) ++ (b1 ++ b0)

/-- The two stream bytes of a 16-bit field, least significant first (20_memory R54). -/
def le16Bytes (v : Half) : List Byte := [v.extractLsb' 0 8, v.extractLsb' 8 8]

/-- The four stream bytes of LEN, least significant first (20_memory R54). -/
def le32Bytes (v : Word32) : List Byte :=
  [v.extractLsb' 0 8, v.extractLsb' 8 8, v.extractLsb' 16 8, v.extractLsb' 24 8]

/-- Split the first 16 bytes of a stream into the fields of R81 and the bytes after them; none when there
are fewer than 16. -/
def Desc.parse : List Byte → Option (Desc × List Byte)
  | b0 :: b1 :: b2 :: b3 :: b4 :: b5 :: b6 :: b7 :: b8 :: b9 :: b10 :: b11 :: b12 :: b13 :: b14 :: b15 :: rest =>
    some ({ op := b0, rsv := b1, a0 := le16 b2 b3, a1 := le16 b4 b5, a2 := le16 b6 b7, a3 := le16 b8 b9,
            color := le16 b10 b11, len := le32 b12 b13 b14 b15 }, rest)
  | _ => none

/-- How many payload bytes follow a descriptor: decided by OP, RSV and LEN alone, before any operand is
validated (30_encoding R84). -/
def Desc.payloadLen (d : Desc) : Nat :=
  if d.op = 0x04#8 ∧ d.rsv = 0x00#8 then d.len.toNat else 0

/-- Bytes of the payload beats that hold `n` payload bytes: 16 per beat, padded (30_encoding R84). -/
def beatBytes (n : Nat) : Nat := 16 * ((n + 15) / 16)

/-- `size` of R84: how far `pc` moves over a descriptor that ends without TRANSPORT_FAIL. -/
def Desc.size (d : Desc) : Nat := 16 + beatBytes d.payloadLen

/-! ### Decoding -/

/-- Why a byte sequence is no instruction. -/
inductive DecodeError where
  /-- Fewer than 16 bytes: no descriptor yet (30_encoding R83). Safe: the machine waits. -/
  | shortDescriptor
  /-- Fewer than LEN payload bytes after a BLIT descriptor (30_encoding R84). Safe: the machine waits. -/
  | shortPayload
  /-- RSV is not 0x00 (30_encoding R86); the machine ends the operation with ILLEGAL_OP. -/
  | reservedNotZero
  /-- OP is 0x00 or 0x0B to 0xFF (30_encoding R86); the machine ends the operation with ILLEGAL_OP. -/
  | illegalOp
  /-- A byte on the wire that is none of the fourteen commands of R88. -/
  | unknownCommand
  deriving DecidableEq, Repr

/-- Select the operation of a descriptor by RSV and OP (30_encoding R85, R86) and give it its fields; a
BLIT takes its payload from the bytes that follow (R84), the pad bytes of the last beat are dropped. -/
def decodeDesc (d : Desc) (rest : List Byte) : Except DecodeError (Instr × List Byte) :=
  if d.rsv ≠ 0x00#8 then .error .reservedNotZero
  else if d.op = 0x01#8 then .ok (.init d.a0, rest)
  else if d.op = 0x02#8 then .ok (.setMode d.a0, rest)
  else if d.op = 0x03#8 then .ok (.setWindow d.a0 d.a1 d.a2 d.a3, rest)
  else if d.op = 0x04#8 then
    if rest.length < d.len.toNat then .error .shortPayload
    else .ok (.blit d.a0 d.a1 d.a2 d.a3 d.len (rest.take d.len.toNat), rest.drop (beatBytes d.len.toNat))
  else if d.op = 0x05#8 then .ok (.fillRect d.a0 d.a1 d.a2 d.a3 d.color, rest)
  else if d.op = 0x06#8 then .ok (.pixel d.a0 d.a1 d.color, rest)
  else if d.op = 0x07#8 then .ok (.clear d.color, rest)
  else if d.op = 0x08#8 then .ok (.line d.a0 d.a1 d.a2 d.a3 d.color, rest)
  else if d.op = 0x09#8 then .ok (.circle d.a0 d.a1 d.a2 d.color, rest)
  else if d.op = 0x0A#8 then .ok (.backlight (d.a0.getLsbD 0), rest)
  else .error .illegalOp

/-- Decode the operation at the front of a byte stream; answers the bytes after it as well. -/
def decode (bs : List Byte) : Except DecodeError (Instr × List Byte) :=
  match Desc.parse bs with
  | none => .error .shortDescriptor
  | some (d, rest) => decodeDesc d rest

/-- Decode a command byte on the wire, format WIRE8 (30_encoding R88), under the machine's parameters. The two
commands with an effect of their own in the sink (20_memory R63, R65) are looked for first (log entry 29). -/
def decodeWire (cfg : Params) (b : Byte) : Option Instr :=
  if b = cfg.cmdSwreset then some .swreset
  else if b = cfg.cmdRamwr then some .ramwr
  else if b = cfg.cmdSlpout then some .slpout
  else if b = cfg.cmdNoron then some .noron
  else if b = cfg.cmdInvoff then some .invoff
  else if b = cfg.cmdInvon then some .invon
  else if b = cfg.cmdDispoff then some .dispoff
  else if b = cfg.cmdDispon then some .dispon
  else if b = cfg.cmdCaset then some .caset
  else if b = cfg.cmdRaset then some .raset
  else if b = cfg.cmdVscrdef then some .vscrdef
  else if b = cfg.cmdMadctl then some .madctl
  else if b = cfg.cmdVscrsadd then some .vscrsadd
  else if b = cfg.cmdColmod then some .colmod
  else none

/-- Decode in one of the two formats: the descriptor stream, or the command bytes of the wire. -/
def decodeIn (cfg : Params) (f : Format) (bs : List Byte) : Except DecodeError (Instr × List Byte) :=
  match f with
  | .desc128 => decode bs
  | .wire8 =>
    match bs with
    | [] => .error .unknownCommand
    | b :: rest =>
      match decodeWire cfg b with
      | some i => .ok (i, rest)
      | none => .error .unknownCommand

/-! ### Encoding -/

/-- The 16 stream bytes of a descriptor (30_encoding R81). -/
def Desc.bytes (d : Desc) : List Byte :=
  d.op :: d.rsv :: (le16Bytes d.a0 ++ le16Bytes d.a1 ++ le16Bytes d.a2 ++ le16Bytes d.a3 ++ le16Bytes d.color
    ++ le32Bytes d.len)

/-- The words of an instruction: a descriptor with the fields it does not use at 0 (30_encoding R89), for
BLIT followed by its payload and the zero padding of the last beat (R84); or the command byte. Of a BLIT whose LEN is
not the length of its payload (`len=<n>`, R89) the payload is padded to its own beats, not to those LEN announces: the
spec is silent there (DESIGN CHOICE, log entry 31). -/
def encode (cfg : Params) : Instr → List Byte
  | .init mode => Desc.bytes { op := 0x01#8, a0 := mode }
  | .setMode mode => Desc.bytes { op := 0x02#8, a0 := mode }
  | .setWindow x0 y0 x1 y1 => Desc.bytes { op := 0x03#8, a0 := x0, a1 := y0, a2 := x1, a3 := y1 }
  | .blit x y w h len payload =>
    Desc.bytes { op := 0x04#8, a0 := x, a1 := y, a2 := w, a3 := h, len := len } ++ payload
      ++ List.replicate (beatBytes payload.length - payload.length) 0#8
  | .fillRect x y w h color => Desc.bytes { op := 0x05#8, a0 := x, a1 := y, a2 := w, a3 := h, color := color }
  | .pixel x y color => Desc.bytes { op := 0x06#8, a0 := x, a1 := y, color := color }
  | .clear color => Desc.bytes { op := 0x07#8, color := color }
  | .line x0 y0 x1 y1 color =>
    Desc.bytes { op := 0x08#8, a0 := x0, a1 := y0, a2 := x1, a3 := y1, color := color }
  | .circle xc yc r color => Desc.bytes { op := 0x09#8, a0 := xc, a1 := yc, a2 := r, color := color }
  | .backlight on => Desc.bytes { op := 0x0A#8, a0 := if on then 1#16 else 0#16 }
  | .swreset => [cfg.cmdSwreset]
  | .slpout => [cfg.cmdSlpout]
  | .noron => [cfg.cmdNoron]
  | .invoff => [cfg.cmdInvoff]
  | .invon => [cfg.cmdInvon]
  | .dispoff => [cfg.cmdDispoff]
  | .dispon => [cfg.cmdDispon]
  | .caset => [cfg.cmdCaset]
  | .raset => [cfg.cmdRaset]
  | .ramwr => [cfg.cmdRamwr]
  | .vscrdef => [cfg.cmdVscrdef]
  | .madctl => [cfg.cmdMadctl]
  | .vscrsadd => [cfg.cmdVscrsadd]
  | .colmod => [cfg.cmdColmod]

/-- How many bytes an instruction takes where it is fetched: a descriptor with its payload beats (R84), or
one command byte. -/
def Instr.size : Instr → Nat
  | .blit _ _ _ _ len _ => 16 + beatBytes len.toNat
  | .init _ | .setMode _ | .setWindow .. | .fillRect .. | .pixel .. | .clear _ | .line ..
  | .circle .. | .backlight _ => 16
  | .swreset | .slpout | .noron | .invoff | .invon | .dispoff | .dispon | .caset | .raset | .ramwr
  | .vscrdef | .madctl | .vscrsadd | .colmod => 1

/-! ### Words numbered as spec/opcode_table.json numbers them -/

/-- `n` bytes of a number, byte `k` holding its bits `8k+7 : 8k` (30_encoding R81). -/
def numberBytes : Nat → Nat → List Byte
  | 0, _ => []
  | n + 1, w => BitVec.ofNat 8 w :: numberBytes n (w / 256)

/-- The stream bytes of the descriptor whose bits are `w`, followed by as many zero payload bytes as it
announces. -/
def tableStream (w : Nat) : List Byte :=
  let head := numberBytes 16 w
  match Desc.parse head with
  | none => head
  | some (d, _) => head ++ List.replicate (beatBytes d.payloadLen) 0#8

/-- The instruction the decoder reads from a row's bits: an 8-bit row is a command byte on the wire under the
default parameters, which are the table's own, any other row a descriptor whose bits above `nbits` are 0. -/
def decodeTableWord (nbits w : Nat) : Option Instr :=
  if nbits = 8 then decodeWire {} (BitVec.ofNat 8 w)
  else
    match decode (tableStream w) with
    | .ok (i, _) => some i
    | .error _ => none

end Sys2Proof
end

