-- ==== Sys2Proof/Machine/State.lean ====
section
/-! DEFINITION. The state of the machine as plain data: the sequencer's registers (spec 10_state), the
inputs it reads, the events it has emitted, and the panel at the far end of the wire (20_memory R62). -/

namespace Sys2Proof.Machine

/-- A memory as (address, byte) pairs, addresses strictly rising; an address not listed holds no value. -/
abbrev Mem := List Host.Cell

/-- One output action of the sequencer (40_transport R110). `dc = false` is command mode, `true` data mode;
`level = true` asserts reset or lights the backlight. -/
inductive Event where
  | xfer (dc : Bool) (bytes : List Byte)
  | rst (level : Bool)
  | bl (level : Bool)
  | delay (ms : Nat)
  deriving DecidableEq, Repr

/-- An entry of the trace: an event the environment has answered, and whether it failed (R111). -/
structure Emitted where
  event : Event
  failed : Bool := false
  deriving DecidableEq, Repr

/-- What the environment does with an offered event (40_transport R111), and the reset input asserted while
the event is in flight (70_reset R255). -/
inductive Answer where
  | accept
  | stall
  | fail
  | reset
  deriving DecidableEq, Repr

/-- What lies between the Transport Adapter and the panel: a byte with the level of the select line, or
the place where an event was cut short and an unknown part of it got through (60_exceptions R224, U1). -/
inductive WireItem where
  | byte (dc : Bool) (b : Byte)
  | cut
  deriving DecidableEq, Repr

/-- The status an operation ends with (60_exceptions R220). -/
inductive StatusCode where
  | ok
  | invalidMode
  | bufMismatch
  | transportFail
  | illegalOp
  deriving DecidableEq, Repr

/-- The receiving panel: the reference sink (20_memory R62). `meaningful` and `freeCount` are the model's own
fields (log entries 10 and 11). -/
structure Panel where
  /-- P_XS, P_XE, P_YS, P_YE: the column and row window. -/
  xs : Half := 0#16
  xe : Half := 0#16
  ys : Half := 0#16
  ye : Half := 0#16
  /-- P_COL, P_ROW: the write pointer. -/
  col : Half := 0#16
  row : Half := 0#16
  /-- P_CMD: the last command byte received, or none. -/
  cmd : Option Byte := none
  /-- P_ARGS: the data bytes received since that command. -/
  args : List Byte := []
  /-- P_HALF: a pending first byte of a pixel, or none. -/
  half : Option Byte := none
  /-- FM: the frame memory, two bytes a pixel (log entry 13). -/
  fm : Mem := []
  /-- Whether the sink gives its memory a meaning (log entry 10). -/
  meaningful : Bool := false
  /-- How many free values have been drawn (log entry 11). -/
  freeCount : Nat := 0
  deriving DecidableEq, Repr

/-- The whole machine. The default of each field is its value at reset (10_state R31, 70_reset R250). -/
structure State where
  /-- Byte index in the descriptor stream of the descriptor being executed (R21). -/
  pc : Nat := 0
  /-- MODE, the Orientation Mode (R22). -/
  mode : BitVec 3 := 0#3
  /-- OX, FW, OY, FH: the Frame Window (R23). -/
  ox : Half := Config.landOx
  fw : Half := Config.landW
  oy : Half := Config.landOy
  fh : Half := Config.landH
  /-- WIN_XS, WIN_YS, WIN_XE, WIN_YE: the shadow of the Active Drawing Window (R25). -/
  winXs : Half := 0#16
  winYs : Half := 0#16
  winXe : Half := 0#16
  winYe : Half := 0#16
  /-- STATUS (R26); its fields are read and written through Flags.lean. -/
  status : Byte := 0x00#8
  /-- TBUF, the Transfer Buffer (R29). DESIGN CHOICE at reset, log entry 7. -/
  tbuf : Vector Byte Config.tbufSize := Vector.replicate Config.tbufSize 0#8
  /-- RST_OUT, the last level driven on the reset line; true is asserted (R30). -/
  rstOut : Bool := false
  /-- BL_OUT, the last level driven on the backlight line; true is on (R30). -/
  blOut : Bool := false
  /-- The event on the event port that has not been answered (40_transport R111, R134). -/
  offered : Option Event := none
  /-- Bytes of the descriptor stream the host has pushed, by byte index (20_memory R50). Log entry 1. -/
  stream : Mem := []
  /-- What the environment answers to the coming events; past the end it accepts. Log entry 3. -/
  answers : List Answer := []
  /-- The reset input has been asserted between two operations (70_reset R250). Log entry 6. -/
  resetRequest : Bool := false
  /-- The events answered so far, oldest first (00_scope R15). Log entry 23. -/
  trace : List Emitted := []
  /-- The status codes of the operations that ended, oldest first (00_scope R15). Log entry 23. -/
  codes : List StatusCode := []
  /-- Handed to the Transport Adapter and not yet received by the panel, oldest first. Log entry 8. -/
  wire : List WireItem := []
  /-- The receiving panel. -/
  panel : Panel := {}
  /-- The parameters this machine was built with (00_scope R10): configuration, changed by no step. Log entry 29. -/
  params : Params := {}
  deriving DecidableEq, Repr

/-- Where no further step exists. None of them is an error of an instruction: the errors of the spec are
status codes and lead to a next state. -/
inductive Fault where
  /-- STATUS.FATAL is 1: "no later descriptor is ever accepted" (60_exceptions R224). Raised by the fetch. Safe. -/
  | fatalStop
  /-- The environment never answers the offered event (40_transport R111, 70_reset R264). Raised by the
  fetch. Safe. -/
  | eventStalled
  /-- The descriptor stream is exhausted with the sequencer idle: the normal end of a run (00_scope R14).
  Raised by the fetch. Safe. -/
  | streamEnded
  /-- A BLIT waits for payload beats that never come (30_encoding R84, U9). Raised by the fetch. Safe. -/
  | payloadMissing
  deriving DecidableEq, Repr

/-- Why an instruction has no meaning in this model. -/
inductive Refusal where
  /-- The instruction of this name has no meaning yet. Raised by exec's arms alone. Safe. -/
  | notModelled (mnemonic : String)
  deriving DecidableEq, Repr

/-- The outcome of one step of this machine. -/
abbrev Result := Host.Outcome State Fault Refusal

/-- The machine right after reset (10_state R31, 70_reset R250, R251). -/
def State.reset : State := {}

end Sys2Proof.Machine
end

