-- ==== Sys2Proof/Machine/Flags.lean ====
section
/-! DEFINITION. STATUS, the only flag-like state of the sequencer (spec 10_state R26, R28): its fields, read
and written. No operation leaves a carry, zero, sign or overflow behind. -/

namespace Sys2Proof.Machine

/-- BUSY, bit 0: an operation is executing. -/
def State.busy (s : State) : Bool := s.status.getLsbD 0

/-- INIT_DONE, bit 1: an INIT has run to its end with status OK. -/
def State.initDone (s : State) : Bool := s.status.getLsbD 1

/-- FATAL, bit 2: a transport failure has stopped the sequencer. -/
def State.fatal (s : State) : Bool := s.status.getLsbD 2

/-- DIAG_MODE, bit 3: some INIT or SET_MODE was given a mode outside 0 to 7. -/
def State.diagMode (s : State) : Bool := s.status.getLsbD 3

/-- LAST, bits 6:4: the status code of the most recent operation that ended. -/
def State.last (s : State) : BitVec 3 := s.status.extractLsb' 4 3

/-- The number of a status code (60_exceptions R220). -/
def StatusCode.bits : StatusCode → BitVec 3
  | .ok => 0#3
  | .invalidMode => 1#3
  | .bufMismatch => 2#3
  | .transportFail => 3#3
  | .illegalOp => 4#3

/-- A status byte with bit `k` made `b`, every other bit as it was. -/
def putBit (k : Nat) (b : Bool) (v : Byte) : Byte :=
  if b then v ||| (1#8 <<< k) else v &&& ~~~(1#8 <<< k)

/-- A status byte with bits 6:4 made `c`, every other bit as it was. -/
def putLast (c : BitVec 3) (v : Byte) : Byte := (v &&& 0x8F#8) ||| (c.setWidth 8 <<< 4)

/-- Write BUSY. -/
def State.setBusy (b : Bool) (s : State) : State := { s with status := putBit 0 b s.status }

/-- Write INIT_DONE. -/
def State.setInitDone (b : Bool) (s : State) : State := { s with status := putBit 1 b s.status }

/-- Write FATAL. -/
def State.setFatal (b : Bool) (s : State) : State := { s with status := putBit 2 b s.status }

/-- Write DIAG_MODE. -/
def State.setDiagMode (b : Bool) (s : State) : State := { s with status := putBit 3 b s.status }

/-- Write LAST. -/
def State.setLast (c : StatusCode) (s : State) : State := { s with status := putLast c.bits s.status }

end Sys2Proof.Machine
end

