-- ==== Sys2Proof/Machine/Operands.lean ====
section
/-! DEFINITION. How operand fields are read and how numbers are laid out: the integer conversions of spec
00_scope R17, the operand types of 30_encoding R82, and the byte order of the wire (20_memory R52, R53). -/

namespace Sys2Proof.Machine

/-- `u16(v)`: the low 16 bits of an exact integer (R17). The only truncation of the machine (20_memory R58). -/
def u16 (v : Int) : Half := BitVec.ofInt 16 v

/-- `s16(b)`: a coordinate or a mode, two's complement (R17, R82). -/
def s16 (b : Half) : Int := b.toInt

/-- `zext(b)`: a size or a radius, unsigned (R17, R82). -/
def zext (b : Half) : Nat := b.toNat

/-- `hi8(v)` (R17). -/
def hi8 (v : Half) : Byte := v.extractLsb' 8 8

/-- `lo8(v)` (R17). -/
def lo8 (v : Half) : Byte := v.extractLsb' 0 8

/-- `be16(v)`: high byte first, the order of a colour (20_memory R52) and of a window address (R53). -/
def be16 (v : Half) : List Byte := [hi8 v, lo8 v]

/-- A 16-bit value from its two wire bytes, high byte first (20_memory R64). -/
def ofBe16 (hi lo : Byte) : Half := hi ++ lo

/-- A mode operand: the whole field is compared, valid only from 0 to 7 (30_encoding R82). -/
def modeOperand (a0 : Half) : Option (BitVec 3) :=
  if 0 ≤ s16 a0 ∧ s16 a0 < Config.nModes then some (BitVec.ofInt 3 (s16 a0)) else none

/-- The Frame Window tuple: origin-x, width, origin-y, height (10_state R23). -/
structure Frame where
  ox : Half
  fw : Half
  oy : Half
  fh : Half
  deriving DecidableEq, Repr

/-- `frame_of` (10_state R24): the comparison `mode < 4` decides (90_conflicts C1). -/
def frameOf (m : BitVec 3) : Frame :=
  if m.toNat < 4 then ⟨Config.landOx, Config.landW, Config.landOy, Config.landH⟩
  else ⟨Config.portOx, Config.portW, Config.portOy, Config.portH⟩

/-- Bytes of a region, `w * h * 2`, exact (42_pixel_region R161). -/
def regionBytes (w h : Nat) : Nat := w * h * Config.bytesPerPixel

end Sys2Proof.Machine
end

