-- ==== Sys2Proof/Machine/Ops.lean ====
section
/-! DEFINITION. The shared operations: memory by address, the end of an operation and the reset beside it, the
address translator, the emission of events, the statements of the spec's pseudocode and the sub-sequences
built from them, and the ports the host reads. -/

namespace Sys2Proof.Machine

/-! ### Memory -/

/-- The canonical form of a memory: addresses strictly rising. An unlisted address holds no value, so no
entry can equal it (log entry 14). -/
abbrev Mem.wf (m : Mem) : Prop := m.Pairwise fun a b => a.1 < b.1

/-- The byte at an address, none where nothing is listed (log entry 14). -/
def Mem.read : Mem → Nat → Option Byte
  | [], _ => none
  | (a, b) :: m, k => if k = a then some b else Mem.read m k

/-- Write one byte, keeping the addresses in rising order. -/
def Mem.write : Mem → Nat → Byte → Mem
  | [], k, v => [(k, v)]
  | (a, b) :: m, k, v =>
    if k < a then (k, v) :: (a, b) :: m
    else if k = a then (k, v) :: m
    else (a, b) :: Mem.write m k v

/-- `MemRead(addr, n)`: `n` bytes in address order, none when one of them is not there (00_scope R18). -/
def Mem.readRange (m : Mem) : Nat → Nat → Option (List Byte)
  | _, 0 => some []
  | a, n + 1 =>
    match m.read a with
    | none => none
    | some b =>
      match m.readRange (a + 1) n with
      | none => none
      | some bs => some (b :: bs)

/-- Write a list of bytes at rising addresses. -/
def Mem.writeRange (m : Mem) (a : Nat) : List Byte → Mem
  | [] => m
  | b :: bs => Mem.writeRange (m.write a b) (a + 1) bs

/-! ### Accepting a descriptor, ending an operation, and the way back -/

/-- A descriptor is accepted: BUSY is set (10_state R26). -/
def accept (s : State) : State := s.setBusy true

/-- THE END OF AN OPERATION, which is this block's exception entry (60_exceptions R220, R224, R229). Code 3
sets FATAL, leaves BUSY at 1 and does not move `pc`; every other code clears BUSY and moves `pc` by the
operation's size. Nothing is saved and control goes nowhere. -/
def endOperation (code : StatusCode) (size : Nat) (s : State) : State :=
  match code with
  | .transportFail => { (s.setLast code).setFatal true with codes := s.codes ++ [code] }
  | .ok | .invalidMode | .bufMismatch | .illegalOp =>
    { (s.setLast code).setBusy false with pc := s.pc + size, codes := s.codes ++ [code] }

/-- THE RESET INPUT, the only return from FATAL (70_reset R250, R255; 60_exceptions R230): every register
takes its reset value, no event is emitted, the panel is not touched. What lies outside the block stays:
the host's stream, the environment, the trace, and the bytes already handed over (log entries 6 and 23). The
parameters are not state and stay (log entry 29). -/
def blockReset (s : State) : State :=
  { State.reset with
    stream := s.stream, answers := s.answers, trace := s.trace, codes := s.codes, wire := s.wire, panel := s.panel,
    params := s.params }

/-! ### The windowed framebuffer address translator (20_memory R58) -/

/-- `tx(v)`: add the Frame Window origin-x, keep the low 16 bits. -/
def tx (s : State) (v : Int) : Half := u16 (v + zext s.ox)

/-- `ty(v)`: add the Frame Window origin-y, keep the low 16 bits. -/
def ty (s : State) (v : Int) : Half := u16 (v + zext s.oy)

/-! ### Events and the environment's answers (40_transport R110 to R113) -/

/-- Only a DELAY cannot fail (R111, decision D27). -/
def Event.canFail : Event → Bool
  | .xfer .. | .rst _ | .bl _ => true
  | .delay _ => false

/-- What an accepted event puts on the wire toward the panel: the bytes of a transfer, each with the level of
the select line. The panel does not see chip select (20_memory R67) and the sink not the other lines (R65). -/
def Event.onWire : Event → List WireItem
  | .xfer dc bytes => bytes.map (WireItem.byte dc)
  | .rst _ | .bl _ | .delay _ => []

/-- `flat(trace)` of R113 for one event: a transfer becomes its (dc, byte) pairs, other events stay. -/
def Event.flat : Event → List ((Bool × Byte) ⊕ Event)
  | .xfer dc bytes => bytes.map fun b => .inl (dc, b)
  | .rst l => [.inr (.rst l)]
  | .bl l => [.inr (.bl l)]
  | .delay ms => [.inr (.delay ms)]

/-- The flattened trace (R113). -/
def flat (es : List Event) : List ((Bool × Byte) ⊕ Event) := es.flatMap Event.flat

/-- The signals of the event port that carry an event (R134): `bytes` pairs each `ev_byte` with `ev_last`. -/
structure EventSignals where
  kind : BitVec 2
  dc : Bool
  level : Bool
  ms : BitVec 16
  bytes : List (Byte × Bool)
  deriving DecidableEq, Repr

/-- A byte list with `ev_last` on its last byte (R134). -/
def withLast : List Byte → List (Byte × Bool)
  | [] => []
  | [b] => [(b, true)]
  | b :: c :: bs => (b, false) :: withLast (c :: bs)

/-- How an event appears on the event port (R134). What a signal carries during an event of a kind that does not
use it is left open there; that it is 0, and the byte stream empty, is the model's choice (DESIGN CHOICE, log
entry 30). `ms` has 16 bits on the port. -/
def Event.signals : Event → EventSignals
  | .xfer dc bytes => ⟨0#2, dc, false, 0#16, withLast bytes⟩
  | .rst level => ⟨1#2, false, level, 0#16, []⟩
  | .bl level => ⟨2#2, false, level, 0#16, []⟩
  | .delay ms => ⟨3#2, false, false, BitVec.ofNat 16 ms, []⟩

/-- How far the pseudocode of an operation gets: on to its next statement, or to a state the operation does
not leave. -/
inductive Flow where
  | go (s : State)
  | abort (s : State)
  deriving DecidableEq, Repr

/-- Accept (R111 a): the event is appended to the trace and its bytes are handed over. -/
def handOver (e : Event) (s : State) : State :=
  { s with trace := s.trace ++ [{ event := e }], wire := s.wire ++ e.onWire }

/-- An event did not get through whole: how much of it reached the panel is unknown (R111 c, log entry 19). -/
def cutShort (s : State) : State := { s with wire := s.wire ++ [.cut] }

/-- Fail (R111 c, 60_exceptions R224): the event is appended to the trace marked failed and the operation ends
with TRANSPORT_FAIL. -/
def failTransport (e : Event) (s : State) : State :=
  endOperation .transportFail 0 (cutShort { s with trace := s.trace ++ [{ event := e, failed := true }] })

/-- Stall (R111 b): no answer ever comes; BUSY stays 1 and the event stays on the port (log entry 4). -/
def stallOn (e : Event) (s : State) : State := cutShort { s with offered := some e }

/-- `emit E`: offer an event and wait for the environment's answer (R111). Past the end of `answers` every
event is accepted (log entry 3); a fail answer to a DELAY counts as accept (log entry 18). -/
def emit (e : Event) (s : State) : Flow :=
  match s.answers with
  | [] => .go (handOver e s)
  | .accept :: rest => .go (handOver e { s with answers := rest })
  | .stall :: rest => .abort (stallOn e { s with answers := rest })
  | .fail :: rest =>
    if e.canFail then .abort (failTransport e { s with answers := rest })
    else .go (handOver e { s with answers := rest })
  | .reset :: rest => .abort (blockReset (cutShort { s with answers := rest }))

/-! ### The statements of the pseudocode (00_scope R18) -/

/-- One statement of an operation's pseudocode: a register write, an `emit`, or a write and its `emit`. -/
inductive Stmt where
  /-- `WIN_XS <- u16(x0); WIN_YS <- u16(y0); WIN_XE <- u16(x1); WIN_YE <- u16(y1)` (42_pixel_region R150). -/
  | writeWindow (x0 y0 x1 y1 : Int)
  /-- `MODE <- m; (OX, FW, OY, FH) <- frame_of(m)` (41_panel_control R141). -/
  | writeFrame (m : BitVec 3)
  /-- Refill all of TBUF with a colour (42_pixel_region R155). -/
  | refill (c : Half)
  /-- `STATUS.INIT_DONE <- 1` (41_panel_control R140). -/
  | writeInitDone
  /-- `emit XFER(dc, bytes)`. -/
  | xfer (dc : Bool) (bytes : List Byte)
  /-- `emit XFER(1, be16(tx(x0)) ++ be16(tx(x1)))` (R150). -/
  | columns (x0 x1 : Int)
  /-- `emit XFER(1, be16(ty(y0)) ++ be16(ty(y1)))` (R150). -/
  | rows (y0 y1 : Int)
  /-- `emit XFER(1, TBUF[0:n])` (R155). -/
  | tbufChunk (n : Nat)
  /-- `emit RST(level)`, which writes RST_OUT first (40_transport R116). -/
  | rst (level : Bool)
  /-- `emit BL(level)`, which writes BL_OUT first (R117). -/
  | bl (level : Bool)
  /-- `emit DELAY(ms)` (R115). -/
  | delay (ms : Nat)
  deriving DecidableEq, Repr

/-- All of TBUF for a colour: its two wire bytes, over and over (R155). -/
@[irreducible] def tbufOf (c : Half) : Vector Byte Config.tbufSize :=
  Vector.ofFn fun i => if i.val % Config.bytesPerPixel = 0 then hi8 c else lo8 c

/-- The register writes of a statement. -/
def Stmt.write : Stmt → State → State
  | .writeWindow x0 y0 x1 y1, s => { s with winXs := u16 x0, winYs := u16 y0, winXe := u16 x1, winYe := u16 y1 }
  | .writeFrame m, s =>
    { s with mode := m, ox := (frameOf m).ox, fw := (frameOf m).fw, oy := (frameOf m).oy, fh := (frameOf m).fh }
  | .refill c, s => { s with tbuf := tbufOf c }
  | .writeInitDone, s => s.setInitDone true
  | .rst level, s => { s with rstOut := level }
  | .bl level, s => { s with blOut := level }
  | .xfer .., s | .columns .., s | .rows .., s | .tbufChunk _, s | .delay _, s => s

/-- The event a statement emits, computed from the registers at that moment. -/
def Stmt.event : Stmt → State → Option Event
  | .xfer dc bytes, _ => some (.xfer dc bytes)
  | .columns x0 x1, s => some (.xfer true (be16 (tx s x0) ++ be16 (tx s x1)))
  | .rows y0 y1, s => some (.xfer true (be16 (ty s y0) ++ be16 (ty s y1)))
  | .tbufChunk n, s => some (.xfer true (s.tbuf.toList.take n))
  | .rst level, _ => some (.rst level)
  | .bl level, _ => some (.bl level)
  | .delay ms, _ => some (.delay ms)
  | .writeWindow .., _ | .writeFrame _, _ | .refill _, _ | .writeInitDone, _ => none

/-- One statement: its writes, then its `emit` (40_transport R116, R117, R135). -/
def Stmt.run (m : Stmt) (s : State) : Flow :=
  match m.event s with
  | none => .go (m.write s)
  | some e => emit e (m.write s)

/-- Statements run in the order written, until one aborts (00_scope R18). -/
def runScript : List Stmt → State → Flow
  | [], s => .go s
  | m :: ms, s =>
    match m.run s with
    | .go t => runScript ms t
    | .abort t => .abort t

/-- A whole operation: accept the descriptor, run the pseudocode, end with status OK (30_encoding R84). -/
def runOperation (size : Nat) (script : List Stmt) (s : State) : State :=
  match runScript script (accept s) with
  | .go t => endOperation .ok size t
  | .abort t => t

/-! ### Sub-sequences named by the spec -/

/-- `cmd(c)` (40_transport R114). -/
def cmd (c : Byte) : List Stmt := [.xfer false [c]]

/-- `data(bytes)`: no transfer is ever empty (R112, R114). -/
def data (bytes : List Byte) : List Stmt := if bytes = [] then [] else [.xfer true bytes]

/-- `cmd_data(c, bytes)` (R114). -/
def cmdData (c : Byte) (bytes : List Byte) : List Stmt := cmd c ++ data bytes

/-- `hw_reset()`: release, assert, release, a delay after each (R118). -/
def hwReset : List Stmt :=
  [.rst false, .delay Config.tRst, .rst true, .delay Config.tRst, .rst false, .delay Config.tRst]

/-- `set_frame(m)` (41_panel_control R141). -/
def setFrame (cfg : Params) (m : BitVec 3) : List Stmt :=
  .writeFrame m :: cmdData cfg.cmdMadctl [Config.madctlTable m.toFin]

/-- `set_win(x0, y0, x1, y1)` (42_pixel_region R150). -/
def setWin (cfg : Params) (x0 y0 x1 y1 : Int) : List Stmt :=
  .writeWindow x0 y0 x1 y1 :: (cmd cfg.cmdCaset ++ [.columns x0 x1] ++ cmd cfg.cmdRaset ++ [.rows y0 y1])

/-- `region(x, y, w, h)` (R152). -/
def region (cfg : Params) (x y : Int) (w h : Nat) : List Stmt := setWin cfg x y (x + w - 1) (y + h - 1)

/-- The data transfers of a fill of `n` bytes: full chunks, then the remainder if there is one (R155). -/
def chunks (n : Nat) : List Stmt :=
  List.replicate (n / Config.tbufSize) (.tbufChunk Config.tbufSize)
    ++ (if n % Config.tbufSize > 0 then [.tbufChunk (n % Config.tbufSize)] else [])

/-- `fill(x, y, w, h, c)` (R155). -/
def fill (cfg : Params) (x y : Int) (w h : Nat) (c : Half) : List Stmt :=
  .refill c :: (region cfg x y w h ++ cmd cfg.cmdRamwr ++ chunks (regionBytes w h))

/-- `pixel(x, y, c)` (R157). -/
def pixelAt (cfg : Params) (x y : Int) (c : Half) : List Stmt := setWin cfg x y x y ++ cmdData cfg.cmdRamwr (be16 c)

/-! ### What the host sees -/

/-- The read port: 16 words, reads have no side effect (10_state R27). -/
def readPort (s : State) (word : BitVec 4) : Half :=
  match word.toNat with
  | 0 => s.status.setWidth 16
  | 1 => s.mode.setWidth 16
  | 2 => s.ox
  | 3 => s.fw
  | 4 => s.oy
  | 5 => s.fh
  | 6 => s.winXs
  | 7 => s.winYs
  | 8 => s.winXe
  | 9 => s.winYe
  | _ => 0#16

/-- `in_ready` between steps: the sequencer waits for a beat, idle or inside a BLIT (30_encoding R83). It is
not waiting for a beat once FATAL is set or while an event has no answer. -/
def inReady (s : State) : Bool := !s.fatal && s.offered.isNone

end Sys2Proof.Machine
end

