-- ==== Sys2Proof/Machine/Fetch.lean ====
section
/-! DEFINITION. The fetch of spec 30_encoding R84: what the sequencer finds at `pc`, and how a program word is
placed there from outside. -/

namespace Sys2Proof.Machine

/-- What the fetch finds. -/
inductive Fetched where
  /-- An operation, with its payload. -/
  | run (i : Instr)
  /-- A descriptor that selects no operation (R86). -/
  | illegal
  /-- A BLIT descriptor is there, its payload is not yet: it is accepted and waits (R84). -/
  | wait
  /-- No further step. -/
  | stop (f : Fault)
  deriving DecidableEq, Repr

/-- Read one descriptor at `pc` and, for BLIT, its payload (R84). The pad bytes are not read (log entry 21). -/
def fetchStream (s : State) : Fetched :=
  match s.stream.readRange s.pc 16 with
  | none => .stop .streamEnded
  | some head =>
    match Desc.parse head with
    | none => .stop .streamEnded
    | some (d, _) =>
      match s.stream.readRange (s.pc + 16) d.payloadLen with
      | none => if s.busy then .stop .payloadMissing else .wait
      | some payload =>
        match decode (head ++ payload) with
        | .ok (i, _) => .run i
        | .error _ => .illegal

/-- Nothing is fetched after a transport failure (60_exceptions R224) or while an event has no answer
(40_transport R111 b). -/
def fetch (s : State) : Fetched :=
  if s.fatal then .stop .fatalStop
  else if s.offered.isSome then .stop .eventStalled
  else fetchStream s

/-- ILLEGAL_OP: the descriptor is consumed and nothing else happens (30_encoding R86, 60_exceptions R226). -/
def takeIllegal (s : State) : State := endOperation .illegalOp 16 (accept s)

/-- Put a command byte on the wire as the next thing the panel receives. The opcode table gives the bytes of the
default parameters, so the machine is one with these (log entry 25). -/
def placeOnWire (w : Nat) (s : State) : State :=
  { s with resetRequest := false, params := {}, wire := [.byte false (BitVec.ofNat 8 w)] }

/-- Put a descriptor at `pc`, with the sequencer ready to fetch it: nothing left on the wire, no event without
an answer, neither BUSY nor FATAL (log entry 25). -/
def placeInStream (w : Nat) (s : State) : State :=
  { (s.setBusy false).setFatal false with
    resetRequest := false
    wire := []
    offered := none
    stream := s.stream.writeRange s.pc (tableStream w) }

end Sys2Proof.Machine
end

