-- ==== Sys2Proof/Machine/Control.lean ====
section
/-! DEFINITION. Bring-up, orientation and the backlight: INIT, SET_MODE (spec 41_panel_control) and BACKLIGHT
(40_transport_sequencer R119). -/

namespace Sys2Proof.Machine

/-- `raise InvalidMode(m)` with the sticky diagnostic: no event, no other register (R140, R142, 60_exceptions
R222). -/
def rejectMode (s : State) : State := endOperation .invalidMode 16 ((accept s).setDiagMode true)

/-- The pseudocode of INIT for a valid mode (R140): the clear uses the new FW and FH. -/
def initScript (cfg : Params) (m : BitVec 3) : List Stmt :=
  hwReset
    ++ cmd cfg.cmdSwreset ++ [.delay Config.tSwreset]
    ++ cmd cfg.cmdSlpout ++ [.delay Config.tSlpout]
    ++ cmdData cfg.cmdColmod [cfg.colmod16bpp]
    ++ cmd cfg.cmdInvoff
    ++ cmd cfg.cmdNoron
    ++ setFrame cfg m
    ++ cmd cfg.cmdDispon
    ++ fill cfg 0 0 (zext (frameOf m).fw) (zext (frameOf m).fh) Config.black
    ++ [.writeInitDone]

/-- `INIT mode` (R140). -/
def execInit (mode : Half) (s : State) : Result :=
  match modeOperand mode with
  | none => .next (rejectMode s)
  | some m => .next (runOperation 16 (initScript s.params m) s)

/-- `SET_MODE mode` (R142). -/
def execSetMode (mode : Half) (s : State) : Result :=
  match modeOperand mode with
  | none => .next (rejectMode s)
  | some m => .next (runOperation 16 (setFrame s.params m) s)

/-- `BACKLIGHT on` (R119): the level is written before the event is offered (R117). -/
def execBacklight (on : Bool) (s : State) : Result := .next (runOperation 16 [.bl on] s)

end Sys2Proof.Machine
end

