-- ==== Sys2Proof/Machine/Raster.lean ====
section
/-! DEFINITION. The rasterizer: the points of LINE and CIRCLE, exact integers in the order they are written
(spec 43_rasterizer R170, R174), and the two operations. -/

namespace Sys2Proof.Machine

/-- A plotted point, logical (x, y), before the translator. -/
abbrev Point := Int × Int

/-- `n` turns of the loop of R170 from the running `x`, `y` and `err`. -/
def lineLoop (steep : Bool) (dx dy ystep : Int) : Nat → Int → Int → Int → List Point
  | 0, _, _, _ => []
  | n + 1, x, y, err =>
    (if steep then (y, x) else (x, y)) ::
      (if err - dy < 0 then lineLoop steep dx dy ystep n (x + 1) (y + ystep) (err - dy + dx)
       else lineLoop steep dx dy ystep n (x + 1) y (err - dy))

/-- The loop of R170 over normalised ends, `x0 <= x1`. -/
def lineRun (steep : Bool) (x0 y0 x1 y1 : Int) : List Point :=
  lineLoop steep (x1 - x0) |y1 - y0| (if y0 < y1 then 1 else -1) ((x1 - x0).toNat + 1) x0 y0 ((x1 - x0) / 2)

/-- The second swap of R170: run from the lower to the higher running coordinate. -/
def lineOrdered (steep : Bool) (x0 y0 x1 y1 : Int) : List Point :=
  if x0 > x1 then lineRun steep x1 y1 x0 y0 else lineRun steep x0 y0 x1 y1

/-- `line_points(x0, y0, x1, y1)` (R170): steep lines swap the axes, then the ends are put in order. -/
def linePoints (x0 y0 x1 y1 : Int) : List Point :=
  if |y1 - y0| > |x1 - x0| then lineOrdered true y0 x0 y1 x1 else lineOrdered false x0 y0 x1 y1

/-- The eight points of one turn of the circle loop, in the order of R174. -/
def octantPoints (xc yc x y : Int) : List Point :=
  [(xc + x, yc + y), (xc - x, yc + y), (xc + x, yc - y), (xc - x, yc - y),
   (xc + y, yc + x), (xc - y, yc + x), (xc + y, yc - x), (xc - y, yc - x)]

/-- The loop of R174, `while x < y`; each turn raises `x`, so `r` turns are enough. -/
def circleLoop (xc yc : Int) : Nat → Int → Int → Int → Int → Int → List Point
  | 0, _, _, _, _, _ => []
  | n + 1, f, ddFx, ddFy, x, y =>
    if x < y then
      if f ≥ 0 then
        octantPoints xc yc (x + 1) (y - 1)
          ++ circleLoop xc yc n (f + (ddFy + 2) + (ddFx + 2)) (ddFx + 2) (ddFy + 2) (x + 1) (y - 1)
      else
        octantPoints xc yc (x + 1) y
          ++ circleLoop xc yc n (f + (ddFx + 2)) (ddFx + 2) ddFy (x + 1) y
    else []

/-- `circle_points(xc, yc, r)` (R174): the four seed points, then the loop. -/
def circlePoints (xc yc : Int) (r : Nat) : List Point :=
  [(xc, yc + r), (xc, yc - r), (xc + r, yc), (xc - r, yc)] ++ circleLoop xc yc r (1 - r) 1 (-2 * r) 0 r

/-- `for (px, py) in points, in list order: call pixel(px, py, c)` (R171, R174). -/
def plot (cfg : Params) (points : List Point) (c : Half) : List Stmt := points.flatMap fun p => pixelAt cfg p.1 p.2 c

/-- `LINE x0, y0, x1, y1, color` (R171). -/
def execLine (x0 y0 x1 y1 color : Half) (s : State) : Result :=
  .next (runOperation 16 (plot s.params (linePoints (s16 x0) (s16 y0) (s16 x1) (s16 y1)) color) s)

/-- `CIRCLE xc, yc, r, color` (R174). -/
def execCircle (xc yc r color : Half) (s : State) : Result :=
  .next (runOperation 16 (plot s.params (circlePoints (s16 xc) (s16 yc) (zext r)) color) s)

end Sys2Proof.Machine
end

