-- ==== Sys2Proof/Machine/Region.lean ====
section
/-! DEFINITION. The window and pixel-region operations: SET_WINDOW, BLIT, FILL_RECT, PIXEL, CLEAR (spec
42_pixel_region). -/

namespace Sys2Proof.Machine

/-- `SET_WINDOW x0, y0, x1, y1` (R151). -/
def execSetWindow (x0 y0 x1 y1 : Half) (s : State) : Result :=
  .next (runOperation 16 (setWin s.params (s16 x0) (s16 y0) (s16 x1) (s16 y1)) s)

/-- The pseudocode of BLIT once the length is right: the payload is one transfer, verbatim (R153). -/
def blitScript (cfg : Params) (x y : Int) (w h : Nat) (payload : List Byte) : List Stmt :=
  region cfg x y w h ++ cmd cfg.cmdRamwr ++ data payload

/-- `BLIT x, y, w, h, {payload}` (R153): LEN is compared exactly, before any event; the payload beats are
consumed either way (60_exceptions R223). -/
def execBlit (x y w h : Half) (len : Word32) (payload : List Byte) (s : State) : Result :=
  if len.toNat ≠ regionBytes (zext w) (zext h) then
    .next (endOperation .bufMismatch (16 + beatBytes len.toNat) (accept s))
  else
    .next (runOperation (16 + beatBytes len.toNat) (blitScript s.params (s16 x) (s16 y) (zext w) (zext h) payload) s)

/-- `FILL_RECT x, y, w, h, color` (R156). -/
def execFillRect (x y w h color : Half) (s : State) : Result :=
  .next (runOperation 16 (fill s.params (s16 x) (s16 y) (zext w) (zext h) color) s)

/-- `PIXEL x, y, color` (R157). -/
def execPixel (x y color : Half) (s : State) : Result :=
  .next (runOperation 16 (pixelAt s.params (s16 x) (s16 y) color) s)

/-- `CLEAR color`: a fill of the Frame Window, FW and FH read when the operation starts (R158). -/
def execClear (color : Half) (s : State) : Result :=
  .next (runOperation 16 (fill s.params 0 0 (zext s.fw) (zext s.fh) color) s)

end Sys2Proof.Machine
end

