-- ==== Sys2Proof/Machine/Panel.lean ====
section
/-! DEFINITION. The receiving panel, the reference sink of spec 20_memory R62 to R67: what a command byte and
a data byte do to it, and how its frame memory is read in a claim. -/

namespace Sys2Proof.Machine

/-- Where the two bytes of the pixel at (column, row) are kept (log entry 13). -/
def fmAddr (col row : Half) : Nat := 2 * (row.toNat * 65536 + col.toNat)

/-- FM[col][row] as far as the sink gives it a meaning: none where it was never written since the memory was last
forgotten, or while the sink gives no memory write a meaning (R62, R64, R65, log entries 10 and 20). -/
def Panel.pixel (p : Panel) (col row : Half) : Option Half :=
  if p.meaningful then
    match p.fm.read (fmAddr col row), p.fm.read (fmAddr col row + 1) with
    | some hi, some lo => some (ofBe16 hi lo)
    | _, _ => none
  else none

/-- The sink gives no meaning from here on, until a software reset (93_implementation_defined U1). -/
def Panel.refuse (p : Panel) : Panel := { p with meaningful := false, fm := [] }

/-- Nothing is known of what the frame memory holds: what one memory write without a meaning leaves (R64, U2, U3, log
entry 20). Later writes have theirs. -/
def Panel.forget (p : Panel) : Panel := { p with fm := [] }

/-- The window registers and the pointer are unspecified, six FREE VALUES, and nothing is known of the frame memory:
after a software reset (R65, log entry 11), and after a data byte without a meaning (R64, log entry 20). -/
def Panel.unspecified (p : Panel) : Panel :=
  { p.forget with
    xs := Config.freePanelWord p.freeCount
    xe := Config.freePanelWord (p.freeCount + 1)
    ys := Config.freePanelWord (p.freeCount + 2)
    ye := Config.freePanelWord (p.freeCount + 3)
    col := Config.freePanelWord (p.freeCount + 4)
    row := Config.freePanelWord (p.freeCount + 5)
    freeCount := p.freeCount + 6 }

/-- Whether a cell is one of the controller's memory, `PANEL_COLS` by `PANEL_ROWS` (R51, 00_scope R10, decision D28).
The Frame Window makes no difference (93_implementation_defined U2; log entry 12 on modes 4 to 7). -/
def insideMemory (cfg : Params) (col row : Half) : Bool :=
  col.toNat < cfg.panelCols && row.toNat < cfg.panelRows

/-- When the sink gives a memory write a meaning: start not after end, window inside the memory (R64), which is to say
its far corner. -/
def Panel.windowLegal (cfg : Params) (p : Panel) : Bool :=
  p.xs.toNat ≤ p.xe.toNat && p.ys.toNat ≤ p.ye.toNat && insideMemory cfg p.xe p.ye

/-- `MemWrite((P_COL, P_ROW), 2, hi*256 + lo)` (R64). Without a meaning nothing is known of the memory. -/
def Panel.store (hi lo : Byte) (p : Panel) : Panel :=
  if p.meaningful then
    { p with fm := (p.fm.write (fmAddr p.col p.row) hi).write (fmAddr p.col p.row + 1) lo }
  else p

/-- The pointer moves along a row first, then to the next row, and wraps to the window's start (R64). -/
def Panel.advance (p : Panel) : Panel :=
  if p.col = p.xe then
    { p with col := p.xs, row := if p.row = p.ye then p.ys else p.row + 1#16 }
  else { p with col := p.col + 1#16 }

/-- A data byte of a memory write: the first byte of a pixel waits, the second completes it (R64). Where the sink gives
this write no meaning, it may have gone anywhere (log entry 20). -/
def Panel.pixelByte (cfg : Params) (b : Byte) (p : Panel) : Panel :=
  match p.half with
  | none => { p with half := some b }
  | some hi =>
    (if p.windowLegal cfg then Panel.store hi b { p with half := none }
     else Panel.forget { p with half := none }).advance

/-- A data byte of an address command: collected, and passed on when it is the fourth; one more has no meaning (R64). -/
def Panel.addressByte (load : Half → Half → Panel → Panel) (b : Byte) (p : Panel) : Panel :=
  match p.args with
  | [a0, a1, a2] => load (ofBe16 a0 a1) (ofBe16 a2 b) { p with args := [a0, a1, a2, b] }
  | _ =>
    if p.args.length < 4 then { p with args := p.args ++ [b] }
    else Panel.unspecified { p with args := p.args ++ [b] }

/-- `P_XS`, `P_XE` loaded (R64). -/
def Panel.loadColumns (start stop : Half) (p : Panel) : Panel := { p with xs := start, xe := stop }

/-- `P_YS`, `P_YE` loaded (R64). -/
def Panel.loadRows (start stop : Half) (p : Panel) : Panel := { p with ys := start, ye := stop }

/-- Which wire command the current command is, or none. Where two commands share a byte, the command is the one
`decodeWire` looks for first, so that data go to the command the byte was executed as: the spec is silent there
(DESIGN CHOICE, log entry 29). -/
def Panel.current (cfg : Params) (p : Panel) : Option Instr := p.cmd.bind (decodeWire cfg)

/-- A data byte, by the command it belongs to (R64; log entry 29 on commands that share a byte). Data after any
other command, or after none, has no meaning. -/
def Panel.data (cfg : Params) (b : Byte) (p : Panel) : Panel :=
  match p.current cfg with
  | some .caset => p.addressByte Panel.loadColumns b
  | some .raset => p.addressByte Panel.loadRows b
  | some .ramwr => p.pixelByte cfg b
  | some .madctl | some .colmod => { p with args := p.args ++ [b] }
  | _ => p.unspecified

/-- A software reset leaves the window registers and the pointer unspecified, and nothing is claimed of the frame
memory (R65, log entry 11). From here the sink has a meaning again (log entry 10). -/
def Panel.softReset (p : Panel) : Panel := { p.unspecified with meaningful := true }

/-- The pointer goes to the window's start (R63). -/
def Panel.startWrite (p : Panel) : Panel := { p with col := p.xs, row := p.ys }

/-- What every command byte does: it becomes the current command, and what was collected is dropped (R63). -/
def Panel.command (c : Byte) (p : Panel) : Panel := { p with cmd := some c, args := [], half := none }

/-- What the panel makes of one item of the wire (R63, R64, U1): the wire commands of Wire.lean, the data bytes
and a cut, as one function on the panel alone. -/
def Panel.receive (cfg : Params) : WireItem → Panel → Panel
  | .byte false b, p =>
    if b = cfg.cmdSwreset then (p.command b).softReset
    else if b = cfg.cmdRamwr then (p.command b).startWrite
    else p.command b
  | .byte true b, p => p.data cfg b
  | .cut, p => p.refuse

/-- The panel after receiving a whole list of items, oldest first. -/
def Panel.feed (cfg : Params) (p : Panel) (items : List WireItem) : Panel :=
  items.foldl (fun q item => q.receive cfg item) p

/-- The machine once the panel has received everything that was on the wire. -/
def State.settled (s : State) : State := { s with wire := [], panel := s.panel.feed s.params s.wire }

/-- The panel takes a step, the sequencer none. -/
def onPanel (f : Panel → Panel) (s : State) : State := { s with panel := f s.panel }

end Sys2Proof.Machine
end

