-- ==== Sys2Proof/Machine/Wire.lean ====
section
/-! DEFINITION. The fourteen wire commands, executed by the panel when their byte arrives in command mode (spec
40_transport_sequencer R120 to R133 for each, 20_memory R63 and R65 for what the sink makes of it). -/

namespace Sys2Proof.Machine

/-- software-reset (R120): the window registers and the pointer become unspecified (20_memory R65). -/
def execSwreset (s : State) : Result := .next (onPanel (fun p => (p.command s.params.cmdSwreset).softReset) s)

/-- sleep-out (R121): it becomes the panel's current command (R63). -/
def execSlpout (s : State) : Result := .next (onPanel (Panel.command s.params.cmdSlpout) s)

/-- normal-display-on (R122): it becomes the panel's current command (R63). -/
def execNoron (s : State) : Result := .next (onPanel (Panel.command s.params.cmdNoron) s)

/-- inversion-off (R123): it becomes the panel's current command (R63). -/
def execInvoff (s : State) : Result := .next (onPanel (Panel.command s.params.cmdInvoff) s)

/-- inversion-on (R124): it becomes the panel's current command (R63). -/
def execInvon (s : State) : Result := .next (onPanel (Panel.command s.params.cmdInvon) s)

/-- display-off (R125): it becomes the panel's current command (R63). -/
def execDispoff (s : State) : Result := .next (onPanel (Panel.command s.params.cmdDispoff) s)

/-- display-on (R126): it becomes the panel's current command (R63). -/
def execDispon (s : State) : Result := .next (onPanel (Panel.command s.params.cmdDispon) s)

/-- column-address-set (R127): four address bytes follow (R64). -/
def execCaset (s : State) : Result := .next (onPanel (Panel.command s.params.cmdCaset) s)

/-- row-address-set (R128): four address bytes follow (R64). -/
def execRaset (s : State) : Result := .next (onPanel (Panel.command s.params.cmdRaset) s)

/-- memory-write (R129): the pointer goes to the window's start, pixel data follow (R63, R64). -/
def execRamwr (s : State) : Result := .next (onPanel (fun p => (p.command s.params.cmdRamwr).startWrite) s)

/-- vertical-scroll-define (R130): it becomes the panel's current command (R63). -/
def execVscrdef (s : State) : Result := .next (onPanel (Panel.command s.params.cmdVscrdef) s)

/-- memory-access-control (R131): one data byte follows (R64). -/
def execMadctl (s : State) : Result := .next (onPanel (Panel.command s.params.cmdMadctl) s)

/-- vertical-scroll-address (R132): it becomes the panel's current command (R63). -/
def execVscrsadd (s : State) : Result := .next (onPanel (Panel.command s.params.cmdVscrsadd) s)

/-- pixel-format-set (R133): one data byte follows (R64). -/
def execColmod (s : State) : Result := .next (onPanel (Panel.command s.params.cmdColmod) s)

end Sys2Proof.Machine
end

