-- ==== Sys2Proof/Machine/Dispatch.lean ====
section
/-! DEFINITION. One arm per instruction, each a call of its meaning. -/

namespace Sys2Proof.Machine

def exec (i : Instr) (s : State) : Host.Outcome State Fault Refusal :=
  match i with
  | .init mode => Sys2Proof.Machine.execInit mode s
  | .setMode mode => Sys2Proof.Machine.execSetMode mode s
  | .setWindow x0 y0 x1 y1 => Sys2Proof.Machine.execSetWindow x0 y0 x1 y1 s
  | .blit x y w h len payload => Sys2Proof.Machine.execBlit x y w h len payload s
  | .fillRect x y w h color => Sys2Proof.Machine.execFillRect x y w h color s
  | .pixel x y color => Sys2Proof.Machine.execPixel x y color s
  | .clear color => Sys2Proof.Machine.execClear color s
  | .line x0 y0 x1 y1 color => Sys2Proof.Machine.execLine x0 y0 x1 y1 color s
  | .circle xc yc r color => Sys2Proof.Machine.execCircle xc yc r color s
  | .backlight on => Sys2Proof.Machine.execBacklight on s
  | .swreset => Sys2Proof.Machine.execSwreset s
  | .slpout => Sys2Proof.Machine.execSlpout s
  | .noron => Sys2Proof.Machine.execNoron s
  | .invoff => Sys2Proof.Machine.execInvoff s
  | .invon => Sys2Proof.Machine.execInvon s
  | .dispoff => Sys2Proof.Machine.execDispoff s
  | .dispon => Sys2Proof.Machine.execDispon s
  | .caset => Sys2Proof.Machine.execCaset s
  | .raset => Sys2Proof.Machine.execRaset s
  | .ramwr => Sys2Proof.Machine.execRamwr s
  | .vscrdef => Sys2Proof.Machine.execVscrdef s
  | .madctl => Sys2Proof.Machine.execMadctl s
  | .vscrsadd => Sys2Proof.Machine.execVscrsadd s
  | .colmod => Sys2Proof.Machine.execColmod s

end Sys2Proof.Machine
end

