-- ==== Sys2Proof/Machine/Receive.lean ====
section
/-! DEFINITION. The panel's step: it receives what is next on the wire (spec 20_memory R63, R64). -/

namespace Sys2Proof.Machine

/-- A byte in command mode is decoded as a wire command and executed; one that is none of the fourteen only
becomes the current command (R63, log entry 28). A byte in data mode belongs to the current command (R64).
After a cut the sink has no meaning (60_exceptions R224, U1, log entry 19). -/
def receive (item : WireItem) (s : State) : Result :=
  match item with
  | .byte false b =>
    match decodeWire s.params b with
    | some i => exec i s
    | none => .next (onPanel (Panel.command b) s)
  | .byte true b => .next (onPanel (Panel.data s.params b) s)
  | .cut => .next (onPanel Panel.refuse s)

end Sys2Proof.Machine
end

