-- ==== Sys2Proof/Machine/Step.lean ====
section
/-! DEFINITION. One step of the machine, and how a program word is placed where the next step runs it. -/

namespace Sys2Proof.Machine

/-- One step: the reset input first (70_reset R250); then the panel, as long as something is on the wire (log
entry 8); then the sequencer fetches a descriptor and runs it whole (30_encoding R84, log entry 2). -/
def step (s : State) : Host.Outcome State Fault Refusal :=
  if s.resetRequest then .next (blockReset s)
  else
    match s.wire with
    | item :: rest => receive item { s with wire := rest }
    | [] =>
      match fetch s with
      | .run i => exec i s
      | .illegal => .next (takeIllegal s)
      | .wait => .next (accept s)
      | .stop f => .fault f

/-- The word of an opcode-table row, placed where the next step runs it: an 8-bit row is a command byte on
the wire, any other row a descriptor at `pc` (log entries 1 and 25). -/
def State.withFetchWord (s : State) (nbits w : Nat) : State :=
  if nbits = 8 then placeOnWire w s else placeInStream w s

end Sys2Proof.Machine
end

