-- ==== Sys2Proof/Machine/Pseudo.lean ====
section
/-! DEFINITION. The assembler's pseudo-instructions and their expansions (spec 30_encoding R89, R90;
43_rasterizer R176 to R178; 70_reset R252). The sequencer never sees a pseudo-instruction. -/

namespace Sys2Proof.Machine

/-- The pseudo-instructions of R90. -/
inductive Pseudo where
  /-- `CLEAR` with no operand. -/
  | clearBlack
  /-- `HLINE x, y, w, color`. -/
  | hline (x y w color : Half)
  /-- `VLINE x, y, h, color`. -/
  | vline (x y h color : Half)
  /-- `RECT x, y, w, h, color`. -/
  | rect (x y w h color : Half)
  /-- `CONSTRUCT mode`: the document's object construction. -/
  | construct (mode : Half)
  deriving DecidableEq, Repr

/-- A number as a signed 16-bit field, rejected when it does not fit (R178). -/
def fitS16 (v : Int) : Option Half := if -32768 ≤ v ∧ v ≤ 32767 then some (u16 v) else none

/-- The four sides of a rectangle outline: top, bottom, left, right; the corners are painted twice (R178). -/
def expandRect (x y w h color : Half) : Option (List Instr) :=
  match fitS16 (s16 y + zext h - 1), fitS16 (s16 x + zext w - 1) with
  | some bottom, some right =>
    some [.fillRect x y w 1#16 color, .fillRect x bottom w 1#16 color,
          .fillRect x y 1#16 h color, .fillRect right y 1#16 h color]
  | _, _ => none

/-- What the assembler puts in the stream for a pseudo-instruction; none when it rejects it. -/
def Pseudo.expand : Pseudo → Option (List Instr)
  | .clearBlack => some [.clear Config.black]
  | .hline x y w color => some [.fillRect x y w 1#16 color]
  | .vline x y h color => some [.fillRect x y 1#16 h color]
  | .rect x y w h color => expandRect x y w h color
  | .construct mode => some [.init mode]

/-- The assembler's BLIT: LEN is the number of payload bytes in the braces, unless `len=<n>` is given (R89). Of
2^32 bytes or more, which the field cannot hold, it takes the number modulo 2^32: the spec is silent there (DESIGN
CHOICE, log entry 31). -/
def assembleBlit (x y w h : Half) (payload : List Byte) (len : Option Word32 := none) : Instr :=
  .blit x y w h (len.getD (BitVec.ofNat 32 payload.length)) payload

end Sys2Proof.Machine
end

