-- ==== Sys2Proof/Machine/Surrounding.lean ====
section
/-! DEFINITION. The software around the block, as far as spec 47_surrounding_software gives it: arcs, the clamp and
the corner table of `round_box`, the Glyph Packer, the passes of a glyph and the text tests. It reaches the
sequencer only through operations, so each drawing routine is the list of operations it issues. What the
spec leaves open is left out or opaque (log entry 24). -/

namespace Sys2Proof.Machine

/-! ### arc and round_box -/

/-- `arc_points` (R190): the circle's candidates about the origin whose angle is in range, moved to the
centre. The angle test keeps the document's sign inversion inside `Config.arcIn` (R191, R192); log entry 24 on whole
degrees. -/
def arcPoints (xc yc : Int) (r : Nat) (alpha1 alpha2 : Int) : List Point :=
  ((circlePoints 0 0 r).filter fun o => Config.arcIn o.1 o.2 alpha1 alpha2).map fun o => (xc + o.1, yc + o.2)

/-- `arc` issues one PIXEL per point (R190). -/
def arcInstrs (xc yc : Int) (r : Nat) (alpha1 alpha2 : Int) (color : Half) : List Instr :=
  (arcPoints xc yc r alpha1 alpha2).map fun p => .pixel (u16 p.1) (u16 p.2) color

/-- `round_box` clamps its radius to `min(w, h) // 2` (R193). -/
def roundBoxRadius (w h r : Nat) : Nat := min r (min w h / 2)

/-- The corners of a rounded box. -/
inductive Corner where
  | topLeft
  | topRight
  | bottomLeft
  | bottomRight
  deriving DecidableEq, Repr

/-- The angle range of each corner's arc, `(alpha1, alpha2)` in degrees (R193). -/
def Corner.angles : Corner → Int × Int
  | .topLeft => (90, 180)
  | .topRight => (0, 90)
  | .bottomLeft => (-180, -90)
  | .bottomRight => (-90, 0)

/-! ### Fonts, glyphs and text -/

/-- A font table: bytes and four integer properties, immutable input (R195). -/
structure Font where
  first : Nat
  last : Nat
  width : Nat
  height : Nat
  table : List Byte
  deriving DecidableEq, Repr

/-- One bit per pixel (R195). -/
def Font.bytesPerGlyph (f : Font) : Nat := f.width / 8 * f.height

/-- Where a byte of a glyph lies in the table (R195). -/
def Font.address (f : Font) (codePoint rowOffset : Nat) : Nat :=
  (codePoint - f.first) * f.bytesPerGlyph + rowOffset

/-- The half-open range of the characters a font has: the last code point is not one (R200, 90_conflicts
C9). -/
def Font.has (f : Font) (codePoint : Nat) : Bool := f.first ≤ codePoint && codePoint < f.last

/-- `pack_byte` (R196): eight colours, leftmost pixel first, most significant bit first. -/
def packByte (g : Byte) (fg bg : Half) : List Half :=
  (List.range 8).map fun k => if g.getLsbD (7 - k) then fg else bg

/-- A packed row group as BLIT payload: each colour high byte first (R197). -/
def packBytes (gs : List Byte) (fg bg : Half) : List Byte :=
  gs.flatMap fun g => (packByte g fg bg).flatMap be16

/-- A colour's byte pair packed into one value (R203). -/
def packColor (b0 b1 : Byte) : Half := ofBe16 b0 b1

/-- Pass `k` of a glyph: one BLIT of the cell's width by 8 rows, at `y + 8 * k` (R201). -/
def glyphPass (f : Font) (x y : Int) (k : Nat) (payload : List Byte) : Instr :=
  .blit (u16 x) (u16 (y + 8 * k)) (BitVec.ofNat 16 f.width) 8#16 (BitVec.ofNat 32 payload.length) payload

/-- Bytes of the packer's output buffer for one pass: fixed per variant, 16-wide or 8-wide (R197; log entry 24 on
other widths). -/
def Font.bufferBytes (f : Font) : Nat := if f.width = 16 then Config.glyphBuffer16 else Config.glyphBuffer8

/-- How many 8-row passes a glyph takes: R201 gives it for heights 8 and 16 at width 8, and 16 and 32 at width 16.
"Heights other than those named are not described": that every other height and width has a pass for each whole
group of 8 rows, a remainder of rows being dropped, is the model's choice (DESIGN CHOICE, log entry 24). -/
def Font.passes (f : Font) : Nat := f.height / 8

/-- The cursor advances by a fixed step whether or not the character was drawn (R200, R202, 90_conflicts C5).
The step of 8-wide fonts is not given. -/
def Font.step (f : Font) : Nat := if f.width = 16 then 16 else Config.narrowFontStep

/-- The cursor column after a character (R200, R202). -/
def Font.cursorAfter (f : Font) (x : Int) : Int := x + f.step

end Sys2Proof.Machine
end

