-- ==== Sys2Proof/Safety.lean ====
section
/-! DEFINITION. The terms claims are stated in: the premises on the environment (spec 60_exceptions R225), the
caller's contract (20_memory R59), and what holds in every state a run can reach. -/

namespace Sys2Proof.Machine

/-! ### Premises on the environment and the caller -/

/-- "The environment accepts every event" (40_transport R111, 60_exceptions R225). -/
def State.Accepting (s : State) : Prop := ∀ a ∈ s.answers, a = Answer.accept

/-- The reset input is not asserted while an event is in flight (70_reset R255). -/
def State.NoReset (s : State) : Prop := Answer.reset ∉ s.answers

/-- The caller's contract for a window: inside the Frame Window, start not after end (20_memory R59). -/
def Contract (s : State) (x0 y0 x1 y1 : Int) : Prop :=
  0 ≤ x0 ∧ x0 ≤ x1 ∧ x1 < s.fw.toNat ∧ 0 ≤ y0 ∧ y0 ≤ y1 ∧ y1 < s.fh.toNat

/-- The translated far corner of a window is a cell of the controller's memory (20_memory R64). With the caller's
contract and the Frame Window of MODE, that is to say the whole window lies inside the memory. -/
def CornerInMemory (s : State) (x1 y1 : Int) : Prop :=
  x1 + s.ox.toNat < s.params.panelCols ∧ y1 + s.oy.toNat < s.params.panelRows

/-- The sequencer is idle and nothing stands in the way of its next descriptor (30_encoding R83). -/
def State.Idle (s : State) : Prop :=
  s.resetRequest = false ∧ s.wire = [] ∧ s.fatal = false ∧ s.offered = none

/-- A good end of a run: not stopped by a failure, not hung on an event (60_exceptions R225). -/
def State.Good (s : State) : Prop := s.fatal = false ∧ s.offered = none

/-! ### The traces of the spec, event by event -/

/-- `rep(l, n)` of 00_scope R16. -/
def rep {α : Type} (l : List α) (n : Nat) : List α := (List.replicate n l).flatten

/-- A trace entry for each of these events, none failed. -/
def accepted (es : List Event) : List Emitted := es.map fun e => { event := e }

/-- `s` after these events were offered one after another and all accepted. -/
def State.emitted (es : List Event) (s : State) : State :=
  { s with trace := s.trace ++ accepted es, wire := s.wire ++ es.flatMap Event.onWire,
           answers := s.answers.drop es.length }

/-- STATUS after an operation that ended with `code`: LAST is the code, BUSY is 0, the rest as before
(10_state R26). -/
def endStatus (code : StatusCode) (status : Byte) : Byte := putBit 0 false (putLast code.bits status)

/-- `s` after an operation of `size` stream bytes ended with `code`, not a transport failure (10_state R21, R26). -/
def State.ended (code : StatusCode) (size : Nat) (s : State) : State :=
  { s with pc := s.pc + size, status := endStatus code s.status, codes := s.codes ++ [code] }

/-- `s` with the window shadow of the logical window `(x0, y0, x1, y1)` (10_state R25). -/
def State.window (x0 y0 x1 y1 : Int) (s : State) : State :=
  { s with winXs := u16 x0, winYs := u16 y0, winXe := u16 x1, winYe := u16 y1 }

/-- `s` in mode `m` with its Frame Window (41_panel_control R141). -/
def State.inMode (m : BitVec 3) (s : State) : State :=
  { s with mode := m, ox := (frameOf m).ox, fw := (frameOf m).fw, oy := (frameOf m).oy, fh := (frameOf m).fh }

/-- The four transfers of a window set under the origin `(ox, oy)` (42_pixel_region R150, 20_memory R53, R58). -/
def windowEvents (cfg : Params) (ox oy : Half) (x0 y0 x1 y1 : Int) : List Event :=
  [.xfer false [cfg.cmdCaset], .xfer true (be16 (u16 (x0 + ox.toNat)) ++ be16 (u16 (x1 + ox.toNat))),
   .xfer false [cfg.cmdRaset], .xfer true (be16 (u16 (y0 + oy.toNat)) ++ be16 (u16 (y1 + oy.toNat)))]

/-- The six transfers of a pixel (R157). -/
def pixelEvents (cfg : Params) (ox oy : Half) (x y : Int) (c : Half) : List Event :=
  windowEvents cfg ox oy x y x y ++ [.xfer false [cfg.cmdRamwr], .xfer true (be16 c)]

/-- The transfers of `n` bytes of a colour: whole chunks of the buffer, then the remainder if there is one (R155). -/
def chunkEvents (n : Nat) (c : Half) : List Event :=
  List.replicate (n / Config.tbufSize) (.xfer true (rep (be16 c) Config.tbufPixels))
    ++ if n % Config.tbufSize = 0 then []
       else [.xfer true (rep (be16 c) (n % Config.tbufSize / Config.bytesPerPixel))]

/-- The transfers of a fill (R155). -/
def fillEvents (cfg : Params) (ox oy : Half) (x y : Int) (w h : Nat) (c : Half) : List Event :=
  windowEvents cfg ox oy x y (x + w - 1) (y + h - 1) ++ [.xfer false [cfg.cmdRamwr]] ++ chunkEvents (regionBytes w h) c

/-- The transfers of a blit: the payload is one transfer, none when it is empty (R153). -/
def blitEvents (cfg : Params) (ox oy : Half) (x y : Int) (w h : Nat) (payload : List Byte) : List Event :=
  windowEvents cfg ox oy x y (x + w - 1) (y + h - 1) ++ [.xfer false [cfg.cmdRamwr]]
    ++ if payload = [] then [] else [.xfer true payload]

/-- The transfers of a list of points, in list order (43_rasterizer R171, R174). -/
def plotEvents (cfg : Params) (ox oy : Half) (points : List (Int × Int)) (c : Half) : List Event :=
  points.flatMap fun p => pixelEvents cfg ox oy p.1 p.2 c

/-- `s` with the window shadow of the last of these points, unchanged when there is none. -/
def State.plotted (points : List (Int × Int)) (s : State) : State :=
  match points.getLast? with
  | none => s
  | some p => s.window p.1 p.2 p.1 p.2

/-- The two transfers that reprogram the orientation (41_panel_control R141). -/
def orientationEvents (cfg : Params) (m : BitVec 3) : List Event :=
  [.xfer false [cfg.cmdMadctl], .xfer true [Config.madctlTable m.toFin]]

/-- The events of bring-up in mode `m` (41_panel_control R140): hardware reset, software reset, sleep-out, pixel
format, inversion off, normal display on, orientation, display on, and the clear to black. -/
def initEvents (cfg : Params) (m : BitVec 3) : List Event :=
  [.rst false, .delay Config.tRst, .rst true, .delay Config.tRst, .rst false, .delay Config.tRst,
   .xfer false [cfg.cmdSwreset], .delay Config.tSwreset, .xfer false [cfg.cmdSlpout], .delay Config.tSlpout,
   .xfer false [cfg.cmdColmod], .xfer true [cfg.colmod16bpp],
   .xfer false [cfg.cmdInvoff], .xfer false [cfg.cmdNoron]]
    ++ orientationEvents cfg m ++ [.xfer false [cfg.cmdDispon]]
    ++ fillEvents cfg (frameOf m).ox (frameOf m).oy 0 0 (frameOf m).fw.toNat (frameOf m).fh.toNat Config.black

/-! ### Invariants -/

/-- The Frame Window registers are the frame of MODE (10_state R23). -/
def FrameInv (s : State) : Prop := (⟨s.ox, s.fw, s.oy, s.fh⟩ : Frame) = frameOf s.mode

/-- STATUS holds only what R26 gives it: bit 7 is 0, LAST is at most 4, FATAL exactly when LAST is 3 and then
BUSY as well, and an event without an answer only while an operation runs that has not failed. -/
def StatusInv (s : State) : Prop :=
  s.status.getLsbD 7 = false ∧ s.last.toNat ≤ 4 ∧ (s.fatal = true ↔ s.last = 3#3) ∧
  (s.fatal = true → s.busy = true) ∧ (s.offered.isSome = true → s.busy = true ∧ s.fatal = false)

/-- `pc` is always a multiple of 16 (10_state R21). -/
def PcInv (s : State) : Prop := 16 ∣ s.pc

/-- Both memories keep their canonical form. -/
def MemoryInv (s : State) : Prop := s.stream.wf ∧ s.panel.fm.wf

/-- The command bytes the sequencer can send (30_encoding R88). -/
def sentCommands (cfg : Params) : List Byte :=
  [cfg.cmdSwreset, cfg.cmdSlpout, cfg.cmdNoron, cfg.cmdInvoff, cfg.cmdDispon, cfg.cmdCaset,
   cfg.cmdRaset, cfg.cmdRamwr, cfg.cmdMadctl, cfg.cmdColmod]

/-- A legal event: a command transfer is one command byte the sequencer sends, a data transfer is not empty,
a delay is positive (40_transport R110, R112; 30_encoding R87, R88). -/
def Event.Legal (cfg : Params) : Event → Prop
  | .xfer false bytes => ∃ c ∈ sentCommands cfg, bytes = [c]
  | .xfer true bytes => bytes ≠ []
  | .rst _ | .bl _ => True
  | .delay ms => 0 < ms

/-- Every event of the trace is legal, and a DELAY never fails (R111). -/
def TraceInv (s : State) : Prop :=
  ∀ e ∈ s.trace, e.event.Legal s.params ∧ (e.failed = true → e.event.canFail = true)

end Sys2Proof.Machine
end

