-- ==== Sys2Proof/Certificates/Slice0/Obligations.lean ====
section
/-! DEFINITION. The statements for the provers. Each cites the rule of spec/ it rests on; the vocabulary (traces,
invariants, premises on the environment) is Sys2Proof/Safety.lean. -/

open Sys2Proof Sys2Proof.Machine

/-! ## Reset and the host's ports -/

/-- 10_state R31: the values after reset. TBUF and the panel are unspecified there and are not mentioned. -/
def Obligations.ResetRegisterValues : Prop :=
  State.reset.pc = 0 ∧ State.reset.mode = 0#3 ∧ State.reset.ox = 35#16 ∧ State.reset.fw = 170#16 ∧
  State.reset.oy = 0#16 ∧ State.reset.fh = 320#16 ∧ State.reset.winXs = 0#16 ∧ State.reset.winYs = 0#16 ∧
  State.reset.winXe = 0#16 ∧ State.reset.winYe = 0#16 ∧ State.reset.status = 0x00#8 ∧
  State.reset.rstOut = false ∧ State.reset.blOut = false

/-- 70_reset R250: the reset input, from any state, gives every register its reset value and emits no event; the
panel is not touched. That the host's stream, the environment, the status list and what is already on the
wire stay is the model's choice (log entry 6), as is that the parameters have a place in the state (log entry 29). -/
def Obligations.ResetInputRestoresRegisters : Prop :=
  ∀ s : State, s.resetRequest = true → ∃ t, step s = .next t ∧
    t.pc = 0 ∧ t.mode = 0#3 ∧ t.ox = 35#16 ∧ t.fw = 170#16 ∧ t.oy = 0#16 ∧ t.fh = 320#16 ∧
    t.winXs = 0#16 ∧ t.winYs = 0#16 ∧ t.winXe = 0#16 ∧ t.winYe = 0#16 ∧ t.status = 0x00#8 ∧
    t.rstOut = false ∧ t.blOut = false ∧ t.offered = none ∧ t.resetRequest = false ∧
    t.trace = s.trace ∧ t.panel = s.panel ∧
    t.stream = s.stream ∧ t.answers = s.answers ∧ t.codes = s.codes ∧ t.wire = s.wire ∧ t.params = s.params

/-- 60_exceptions R224, R230: after a transport failure only the panel catches up with the wire, then there is no
further step; the reset input is the only way out. That "no further step" is a fault of this name, and that the panel
catches up first, is the model's (log entries 5 and 8). -/
def Obligations.FatalIsLeftOnlyByReset : Prop :=
  ∀ s : State, s.fatal = true → s.resetRequest = false →
    (s.wire = [] → step s = .fault .fatalStop) ∧
    (∀ item rest, s.wire = item :: rest →
      ∃ p, step s = .next { s with wire := rest, panel := p })

/-- 10_state R27: the ten words of the read port with their unused upper bits 0, and 0 for words 10 to 15. That
a read has no side effect is its being a function of the state (log entry 27). -/
def Obligations.ReadPortWords : Prop :=
  ∀ s : State,
    readPort s 0#4 = 0#8 ++ s.status ∧ readPort s 1#4 = 0#13 ++ s.mode ∧ readPort s 2#4 = s.ox ∧
    readPort s 3#4 = s.fw ∧ readPort s 4#4 = s.oy ∧ readPort s 5#4 = s.fh ∧ readPort s 6#4 = s.winXs ∧
    readPort s 7#4 = s.winYs ∧ readPort s 8#4 = s.winXe ∧ readPort s 9#4 = s.winYe ∧
    ∀ k : BitVec 4, 10 ≤ k.toNat → readPort s k = 0#16

/-- 30_encoding R83, 70_reset R251: between two steps `in_ready` is 1 when the sequencer is idle, after reset, and
inside a BLIT that waits for its payload (BUSY 1, FATAL 0, no event offered); it is 0 once FATAL is set and while an
event has no answer. That it is read between steps is the model's choice (log entry 27). -/
def Obligations.InReadyWhenIdle : Prop :=
  inReady State.reset = true ∧
  ∀ s : State, (StatusInv s → s.busy = false → inReady s = true) ∧ (s.fatal = true → inReady s = false) ∧
    (s.offered.isSome = true → inReady s = false) ∧
    ∀ (head rest : List Byte) (d : Desc), s.Idle → s.stream.readRange s.pc 16 = some head →
      Desc.parse head = some (d, rest) → d.op = 0x04#8 → d.rsv = 0x00#8 →
      s.stream.readRange (s.pc + 16) d.len.toNat = none → s.busy = false →
        ∃ t, step s = .next t ∧ t.busy = true ∧ inReady t = true

/-! ## Encoding -/

/-- 95_test_vectors 2.1 and 30_encoding R91: words written out from the encoding tables decode to the
instructions they stand for, one per family, and the fourteen wire commands under the default parameters (R88, log
entry 15), with which the machine starts. -/
def Obligations.SpecWordsDecode : Prop :=
  decode ([0x02, 0x00, 0xFF, 0xFF, 0, 0, 0, 0, 0, 0, 0, 0, 0, 0, 0, 0] : List Byte) = .ok (.setMode 0xFFFF#16, []) ∧
  decode ([0x05, 0x00, 0x0A, 0x00, 0x14, 0x00, 0x10, 0x00, 0x09, 0x00, 0xE0, 0x07, 0, 0, 0, 0] : List Byte)
    = .ok (.fillRect 10#16 20#16 16#16 9#16 0x07E0#16, []) ∧
  decode ([0x04, 0x00, 0x01, 0x00, 0x02, 0x00, 0x02, 0x00, 0x01, 0x00, 0, 0, 0x04, 0, 0, 0,
           0xF8, 0x00, 0x07, 0xE0, 0, 0, 0, 0, 0, 0, 0, 0, 0, 0, 0, 0, 0x0A] : List Byte)
    = .ok (.blit 1#16 2#16 2#16 1#16 4#32 [0xF8, 0x00, 0x07, 0xE0], [0x0A]) ∧
  decode ([0x08, 0x00, 0, 0, 0, 0, 0x02, 0x00, 0x01, 0x00, 0xFF, 0xFF, 0, 0, 0, 0] : List Byte)
    = .ok (.line 0#16 0#16 2#16 1#16 0xFFFF#16, []) ∧
  decode ([0x0A, 0x00, 0x03, 0x00, 0, 0, 0, 0, 0, 0, 0, 0, 0, 0, 0, 0] : List Byte) = .ok (.backlight true, []) ∧
  ([0x01, 0x11, 0x13, 0x20, 0x21, 0x28, 0x29, 0x2A, 0x2B, 0x2C, 0x33, 0x36, 0x37, 0x3A] : List Byte).map
      (decodeWire State.reset.params) =
    [some .swreset, some .slpout, some .noron, some .invoff, some .invon, some .dispoff, some .dispon, some .caset,
     some .raset, some .ramwr, some .vscrdef, some .madctl, some .vscrsadd, some .colmod]

/-- 30_encoding R81, R84, R85, R88: decoding an encoded well-formed instruction gives it back, whatever follows
it, with every operand at every value its field admits, under every parameters that tell the wire commands apart (log
entry 29). -/
def Obligations.DecodeEncodeRoundTrip : Prop :=
  ∀ (cfg : Params) (i : Instr) (rest : List Byte), cfg.Distinct → i.wf = true →
    decodeIn cfg i.format (encode cfg i ++ rest) = .ok (i, rest)

/-- 30_encoding R86: exactly the descriptors with RSV not 0, OP 0x00 or OP above 0x0A select no operation. -/
def Obligations.IllegalDescriptorsAreExactlyR86 : Prop :=
  ∀ (d : Desc) (rest : List Byte),
    (decode (d.bytes ++ rest) = .error .reservedNotZero ∨ decode (d.bytes ++ rest) = .error .illegalOp) ↔
      (d.rsv ≠ 0#8 ∨ d.op = 0x00#8 ∨ 0x0B ≤ d.op.toNat)

/-- 30_encoding R82, R86: a field an operation does not list is ignored, and BACKLIGHT reads only bit 0 of A0. -/
def Obligations.UnusedFieldsAreIgnored : Prop :=
  ∀ (d : Desc) (a0 a1 a2 a3 color : Half) (len : Word32) (rest : List Byte),
    (d.op = 0x01#8 ∨ d.op = 0x02#8 → decode ({ d with a1, a2, a3, color, len }.bytes ++ rest) = decode (d.bytes ++ rest)) ∧
    (d.op = 0x03#8 → decode ({ d with color, len }.bytes ++ rest) = decode (d.bytes ++ rest)) ∧
    (d.op = 0x04#8 → decode ({ d with color }.bytes ++ rest) = decode (d.bytes ++ rest)) ∧
    (d.op = 0x05#8 ∨ d.op = 0x08#8 → decode ({ d with len }.bytes ++ rest) = decode (d.bytes ++ rest)) ∧
    (d.op = 0x06#8 → decode ({ d with a2, a3, len }.bytes ++ rest) = decode (d.bytes ++ rest)) ∧
    (d.op = 0x07#8 → decode ({ d with a0, a1, a2, a3, len }.bytes ++ rest) = decode (d.bytes ++ rest)) ∧
    (d.op = 0x09#8 → decode ({ d with a3, len }.bytes ++ rest) = decode (d.bytes ++ rest)) ∧
    (d.op = 0x0A#8 → a0.getLsbD 0 = d.a0.getLsbD 0 →
      decode ({ d with a0, a1, a2, a3, color, len }.bytes ++ rest) = decode (d.bytes ++ rest))

/-- 30_encoding R84: how far `pc` will move is decided by OP, RSV and LEN alone; it is 16 for every operation but
BLIT, which owns its padded payload beats. -/
def Obligations.SizeIsDecidedByOpRsvLen : Prop :=
  ∀ (d : Desc) (rest rest' : List Byte) (i : Instr), decode (d.bytes ++ rest) = .ok (i, rest') →
    i.size = 16 + (if d.op = 0x04#8 then 16 * ((d.len.toNat + 15) / 16) else 0) ∧ rest' = rest.drop (i.size - 16)

/-! ## The step -/

/-- 30_encoding R84: when the sequencer is free to fetch and the bytes at `pc` decode to an operation, the step is
that operation. -/
def Obligations.StepRunsTheDecodedOperation : Prop :=
  ∀ (s : State) (n : Nat) (bs rest : List Byte) (i : Instr),
    s.Idle → s.stream.readRange s.pc n = some bs → decode bs = .ok (i, rest) → step s = exec i s

/-- 20_memory R63: when a command byte is next on the wire, the step is that wire command, with the byte taken off
the wire. That receiving a byte is a step of its own, taken before any fetch and with FATAL set as well, is the model's
choice (log entry 8). -/
def Obligations.StepExecutesTheWireCommand : Prop :=
  ∀ (s : State) (b : Byte) (rest : List WireItem) (i : Instr),
    s.resetRequest = false → s.wire = .byte false b :: rest → decodeWire s.params b = some i →
      step s = exec i { s with wire := rest }

/-- 60_exceptions R226: an illegal descriptor is consumed with status ILLEGAL_OP and nothing else. -/
def Obligations.IllegalDescriptorIsSkipped : Prop :=
  ∀ (s : State) (head : List Byte), s.Idle → s.busy = false → s.stream.readRange s.pc 16 = some head →
    (decode head = .error .reservedNotZero ∨ decode head = .error .illegalOp) →
      step s = .next { s with pc := s.pc + 16, status := putLast 4#3 s.status, codes := s.codes ++ [.illegalOp] }

/-- 30_encoding R84, 93_implementation_defined U9: a BLIT whose payload is not there is accepted and waits with
BUSY at 1; while it waits there is no step (a fault of this name: log entry 5). -/
def Obligations.BlitWaitsForItsPayload : Prop :=
  ∀ (s : State) (head rest : List Byte) (d : Desc), s.Idle → s.stream.readRange s.pc 16 = some head →
    Desc.parse head = some (d, rest) → d.op = 0x04#8 → d.rsv = 0x00#8 →
    s.stream.readRange (s.pc + 16) d.len.toNat = none →
      (s.busy = false → step s = .next { s with status := putBit 0 true s.status }) ∧
      (s.busy = true → step s = .fault .payloadMissing)

/-- 20_memory R63, R64, R67: as many steps as there are items on the wire bring the panel up to date, and change
nothing else. The order of these steps before the next descriptor is the model's choice (log entry 8). -/
def Obligations.PanelReceivesTheWholeWire : Prop :=
  ∀ s : State, s.resetRequest = false → Host.Core.run Sys2Proof.core s.wire.length s = .next s.settled

/-! ## Operations under an environment that accepts: result, completion and frame in one equation -/

/-- 41_panel_control R140: INIT of a valid mode. The registers written, the 447 events in order, INIT_DONE, status
OK; every other field as before. -/
def Obligations.InitBringsThePanelUp : Prop :=
  ∀ (mode : Half) (s : State), s.Accepting → 0 ≤ mode.toInt → mode.toInt ≤ 7 →
    ∃ m : BitVec 3, (m.toNat : Int) = mode.toInt ∧ (initEvents s.params m).length = 447 ∧
      exec (.init mode) s = .next
        { s.emitted (initEvents s.params m) with
          pc := s.pc + 16, mode := m, ox := (frameOf m).ox, fw := (frameOf m).fw, oy := (frameOf m).oy,
          fh := (frameOf m).fh, winXs := 0#16, winYs := 0#16, winXe := (frameOf m).fw - 1#16,
          winYe := (frameOf m).fh - 1#16, status := endStatus .ok (putBit 1 true s.status),
          tbuf := tbufOf 0#16, rstOut := false, codes := s.codes ++ [.ok] }

/-- 41_panel_control R142: SET_MODE of a valid mode. -/
def Obligations.SetModeReprogramsTheFrame : Prop :=
  ∀ (mode : Half) (s : State), s.Accepting → 0 ≤ mode.toInt → mode.toInt ≤ 7 →
    ∃ m : BitVec 3, (m.toNat : Int) = mode.toInt ∧
      exec (.setMode mode) s = .next (((s.inMode m).emitted
        [.xfer false [s.params.cmdMadctl], .xfer true [Config.madctlTable m.toFin]]).ended .ok 16)

/-- 60_exceptions R222: a mode outside 0 to 7 is reported and skipped by INIT and SET_MODE alike, before any event
and any register write, under every environment. -/
def Obligations.InvalidModeIsSkipped : Prop :=
  ∀ (mode : Half) (s : State), (mode.toInt < 0 ∨ 7 < mode.toInt) →
    exec (.init mode) s = .next { s with pc := s.pc + 16, status := endStatus .invalidMode (putBit 3 true s.status),
                                         codes := s.codes ++ [.invalidMode] } ∧
    exec (.setMode mode) s = .next { s with pc := s.pc + 16, status := endStatus .invalidMode (putBit 3 true s.status),
                                            codes := s.codes ++ [.invalidMode] }

/-- 42_pixel_region R150, R151: SET_WINDOW. -/
def Obligations.SetWindowProgramsTheWindow : Prop :=
  ∀ (x0 y0 x1 y1 : Half) (s : State), s.Accepting →
    exec (.setWindow x0 y0 x1 y1) s = .next (((s.window x0.toInt y0.toInt x1.toInt y1.toInt).emitted
      (windowEvents s.params s.ox s.oy x0.toInt y0.toInt x1.toInt y1.toInt)).ended .ok 16)

/-- 42_pixel_region R153: BLIT of the right length. -/
def Obligations.BlitStreamsThePayload : Prop :=
  ∀ (x y w h : Half) (len : Word32) (payload : List Byte) (s : State), s.Accepting →
    len.toNat = w.toNat * h.toNat * 2 →
    exec (.blit x y w h len payload) s = .next (((s.window x.toInt y.toInt (x.toInt + w.toNat - 1)
        (y.toInt + h.toNat - 1)).emitted
      (blitEvents s.params s.ox s.oy x.toInt y.toInt w.toNat h.toNat payload)).ended .ok (16 + 16 * ((len.toNat + 15) / 16)))

/-- 60_exceptions R223: BLIT of a wrong length is reported and skipped, its payload beats consumed, before any event
and any register write, under every environment. -/
def Obligations.BlitLengthMismatchIsSkipped : Prop :=
  ∀ (x y w h : Half) (len : Word32) (payload : List Byte) (s : State), len.toNat ≠ w.toNat * h.toNat * 2 →
    exec (.blit x y w h len payload) s =
      .next { s with pc := s.pc + (16 + 16 * ((len.toNat + 15) / 16)), status := endStatus .bufMismatch s.status,
                     codes := s.codes ++ [.bufMismatch] }

/-- 42_pixel_region R155, R156: FILL_RECT. -/
def Obligations.FillRectStreamsTheColour : Prop :=
  ∀ (x y w h c : Half) (s : State), s.Accepting →
    exec (.fillRect x y w h c) s = .next ((({ s.window x.toInt y.toInt (x.toInt + w.toNat - 1)
        (y.toInt + h.toNat - 1) with tbuf := tbufOf c } : State).emitted
      (fillEvents s.params s.ox s.oy x.toInt y.toInt w.toNat h.toNat c)).ended .ok 16)

/-- 42_pixel_region R157: PIXEL. -/
def Obligations.PixelWritesOnePixel : Prop :=
  ∀ (x y c : Half) (s : State), s.Accepting →
    exec (.pixel x y c) s = .next (((s.window x.toInt y.toInt x.toInt y.toInt).emitted
      (pixelEvents s.params s.ox s.oy x.toInt y.toInt c)).ended .ok 16)

/-- 42_pixel_region R158: CLEAR fills the Frame Window held when it starts. -/
def Obligations.ClearFillsTheFrameWindow : Prop :=
  ∀ (c : Half) (s : State), s.Accepting →
    exec (.clear c) s = .next ((({ s.window 0 0 ((s.fw.toNat : Int) - 1) ((s.fh.toNat : Int) - 1) with
        tbuf := tbufOf c } : State).emitted
      (fillEvents s.params s.ox s.oy 0 0 s.fw.toNat s.fh.toNat c)).ended .ok 16)

/-- 43_rasterizer R171: LINE writes the points of `line_points` in list order. -/
def Obligations.LinePlotsItsPoints : Prop :=
  ∀ (x0 y0 x1 y1 c : Half) (s : State), s.Accepting →
    exec (.line x0 y0 x1 y1 c) s = .next (((s.plotted (linePoints x0.toInt y0.toInt x1.toInt y1.toInt)).emitted
      (plotEvents s.params s.ox s.oy (linePoints x0.toInt y0.toInt x1.toInt y1.toInt) c)).ended .ok 16)

/-- 43_rasterizer R174: CIRCLE writes the points of `circle_points` in list order. -/
def Obligations.CirclePlotsItsPoints : Prop :=
  ∀ (xc yc r c : Half) (s : State), s.Accepting →
    exec (.circle xc yc r c) s = .next (((s.plotted (circlePoints xc.toInt yc.toInt r.toNat)).emitted
      (plotEvents s.params s.ox s.oy (circlePoints xc.toInt yc.toInt r.toNat) c)).ended .ok 16)

/-- 40_transport R119: BACKLIGHT, accepted and failed: the level is written before the event is offered. -/
def Obligations.BacklightDrivesTheLine : Prop :=
  ∀ (on : Bool) (s : State),
    (s.Accepting → exec (.backlight on) s = .next ((({ s with blOut := on } : State).emitted [.bl on]).ended .ok 16)) ∧
    (∀ rest, s.answers = .fail :: rest → ∃ t, exec (.backlight on) s = .next t ∧ t.blOut = on ∧
      t.trace = s.trace ++ [{ event := .bl on, failed := true }] ∧ t.last = 3#3 ∧ t.fatal = true ∧
      t.busy = true ∧ t.pc = s.pc)

/-- 40_transport R121 to R133, 20_memory R63: a wire command other than software reset becomes the panel's current
command, what was collected is dropped, and nothing else changes, but that memory-write moves the pointer to
the window's start. -/
def Obligations.WireCommandsBecomeCurrent : Prop :=
  (∀ (s : State) (i : Instr) (c : Byte),
    (i, c) ∈ [(Instr.slpout, s.params.cmdSlpout), (.noron, s.params.cmdNoron), (.invoff, s.params.cmdInvoff),
      (.invon, s.params.cmdInvon), (.dispoff, s.params.cmdDispoff), (.dispon, s.params.cmdDispon),
      (.caset, s.params.cmdCaset), (.raset, s.params.cmdRaset), (.vscrdef, s.params.cmdVscrdef),
      (.madctl, s.params.cmdMadctl), (.vscrsadd, s.params.cmdVscrsadd), (.colmod, s.params.cmdColmod)] →
    exec i s =
      .next { s with panel := { s.panel with cmd := some c, args := [], half := none } }) ∧
  ∀ s : State, exec .ramwr s =
    .next { s with panel := { s.panel with cmd := some s.params.cmdRamwr, args := [], half := none,
                                           col := s.panel.xs, row := s.panel.ys } }

/-- 40_transport R120, 20_memory R63, R65: software reset becomes the current command, and no pixel is known after
it. What the window registers and the pointer hold is a free value (log entry 11): nothing is said of it. -/
def Obligations.SoftwareResetForgetsTheMemory : Prop :=
  ∀ s : State, ∃ p : Panel, exec .swreset s = .next { s with panel := p } ∧ p.cmd = some s.params.cmdSwreset ∧
    p.args = [] ∧ p.half = none ∧ ∀ col row, p.pixel col row = none

/-! ## Frames under any environment, short of the reset input -/

/-- 42_pixel_region, 43_rasterizer: what no drawing operation changes, whatever the environment answers: MODE and the
Frame Window, the two output levels, INIT_DONE, DIAG_MODE and the reserved bit of STATUS, the descriptor
stream, the panel itself (it only receives, in steps of its own: log entry 8), the parameters, and what was already
traced and handed over. -/
def Obligations.DrawingFrame : Prop :=
  ∀ (s : State), s.NoReset →
    ∀ i : Instr, (∃ x0 y0 x1 y1, i = .setWindow x0 y0 x1 y1) ∨ (∃ x y w h len p, i = .blit x y w h len p) ∨
      (∃ x y w h c, i = .fillRect x y w h c) ∨ (∃ x y c, i = .pixel x y c) ∨ (∃ c, i = .clear c) ∨
      (∃ x0 y0 x1 y1 c, i = .line x0 y0 x1 y1 c) ∨ (∃ xc yc r c, i = .circle xc yc r c) →
    ∃ t, exec i s = .next t ∧ t.mode = s.mode ∧ t.ox = s.ox ∧ t.fw = s.fw ∧ t.oy = s.oy ∧ t.fh = s.fh ∧
      t.rstOut = s.rstOut ∧ t.blOut = s.blOut ∧ t.initDone = s.initDone ∧ t.diagMode = s.diagMode ∧
      t.status.getLsbD 7 = s.status.getLsbD 7 ∧ t.stream = s.stream ∧ t.panel = s.panel ∧
      t.resetRequest = s.resetRequest ∧ t.params = s.params ∧ s.trace <+: t.trace ∧ s.wire <+: t.wire

/-- 10_state R29: PIXEL, BLIT, LINE, CIRCLE and SET_WINDOW do not use TBUF, nor does SET_MODE or BACKLIGHT. -/
def Obligations.TbufBelongsToTheFills : Prop :=
  ∀ (s : State), s.NoReset →
    ∀ i : Instr, (∃ x0 y0 x1 y1, i = .setWindow x0 y0 x1 y1) ∨ (∃ x y w h len p, i = .blit x y w h len p) ∨
      (∃ x y c, i = .pixel x y c) ∨ (∃ x0 y0 x1 y1 c, i = .line x0 y0 x1 y1 c) ∨
      (∃ xc yc r c, i = .circle xc yc r c) ∨ (∃ m, i = .setMode m) ∨ (∃ on, i = .backlight on) →
    ∃ t, exec i s = .next t ∧ t.tbuf = s.tbuf

/-- 41_panel_control R141, R144, 10_state R25: SET_MODE sets no window and drives no line; INIT leaves the backlight
alone; BACKLIGHT changes no register but BL_OUT and STATUS. That none of them changes the panel (it receives in steps
of its own) is the model's choice (log entry 8). -/
def Obligations.ControlFrame : Prop :=
  ∀ (s : State), s.NoReset →
    (∀ m, ∃ t, exec (.setMode m) s = .next t ∧ t.winXs = s.winXs ∧ t.winYs = s.winYs ∧ t.winXe = s.winXe ∧
      t.winYe = s.winYe ∧ t.rstOut = s.rstOut ∧ t.blOut = s.blOut ∧ t.initDone = s.initDone ∧
      t.stream = s.stream ∧ t.panel = s.panel ∧ t.params = s.params ∧ s.trace <+: t.trace ∧ s.wire <+: t.wire) ∧
    (∀ m, ∃ t, exec (.init m) s = .next t ∧ t.blOut = s.blOut ∧ t.stream = s.stream ∧ t.panel = s.panel ∧
      t.params = s.params ∧ s.trace <+: t.trace ∧ s.wire <+: t.wire) ∧
    (∀ on, ∃ t, exec (.backlight on) s = .next t ∧ t.mode = s.mode ∧ t.ox = s.ox ∧ t.fw = s.fw ∧ t.oy = s.oy ∧
      t.fh = s.fh ∧ t.winXs = s.winXs ∧ t.winYs = s.winYs ∧ t.winXe = s.winXe ∧ t.winYe = s.winYe ∧
      t.tbuf = s.tbuf ∧ t.rstOut = s.rstOut ∧ t.blOut = on ∧ t.initDone = s.initDone ∧ t.diagMode = s.diagMode ∧
      t.stream = s.stream ∧ t.panel = s.panel ∧ t.params = s.params ∧ s.trace <+: t.trace ∧ s.wire <+: t.wire)

/-! ## When the environment gives up on an event -/

/-- 40_transport R135 on the pseudocode itself: with the statements `ms₁` before it accepted and the event of the
next statement `m` given up, exactly the writes of `ms₁` and of `m` have happened, the events of `ms₁` are
emitted, and no later statement runs. -/
def Obligations.PrefixOfThePseudocode : Prop :=
  ∀ (ms₁ ms₂ : List Stmt) (m : Stmt) (s u : State) (e : Event) (rest : List Answer),
    runScript ms₁ { s with answers := [] } = .go u → m.event u = some e → e.canFail = true →
    s.answers = List.replicate (u.trace.length - s.trace.length) .accept ++ .fail :: rest →
    runScript (ms₁ ++ m :: ms₂) s = .abort (failTransport e { m.write u with answers := rest })

/-- 60_exceptions R224, 40_transport R111, R135: for each of the ten operations, if the environment fails its `k`-th
event, the events before it are emitted, that one is marked failed, nothing comes after it; LAST is 3, FATAL
is 1, BUSY stays 1, `pc` is not advanced. -/
def Obligations.TransportFailureStopsTheOperation : Prop :=
  ∀ (i : Instr) (s u : State) (es : List Event) (k : Nat) (e : Event) (rest : List Answer),
    i.format = .desc128 → exec i { s with answers := [] } = .next u → u.trace = s.trace ++ accepted es →
    es[k]? = some e → e.canFail = true → s.answers = List.replicate k .accept ++ .fail :: rest →
    ∃ t, exec i s = .next t ∧ t.trace = s.trace ++ accepted (es.take k) ++ [{ event := e, failed := true }] ∧
      t.last = 3#3 ∧ t.fatal = true ∧ t.busy = true ∧ t.pc = s.pc ∧ t.codes = s.codes ++ [.transportFail] ∧
      t.answers = rest

/-- 40_transport R111 b, 70_reset R264: for each of the ten operations, if the environment never answers its `k`-th
event, that event stays on the port, BUSY stays 1, no status is recorded, and once the wire is empty there is
no further step (a fault of this name: log entries 4 and 5). -/
def Obligations.StalledEventHangsTheSequencer : Prop :=
  ∀ (i : Instr) (s u : State) (es : List Event) (k : Nat) (e : Event) (rest : List Answer),
    i.format = .desc128 → s.fatal = false → s.resetRequest = false →
    exec i { s with answers := [] } = .next u → u.trace = s.trace ++ accepted es →
    es[k]? = some e → s.answers = List.replicate k .accept ++ .stall :: rest →
    ∃ t, exec i s = .next t ∧ t.trace = s.trace ++ accepted (es.take k) ∧ t.offered = some e ∧ t.busy = true ∧
      t.last = s.last ∧ t.codes = s.codes ∧ t.pc = s.pc ∧ step { t with wire := [] } = .fault .eventStalled

/-- 70_reset R255: for each of the ten operations, the reset input at its `k`-th event abandons it: the trace ends
after the last accepted event and the registers have their reset values. That the input is an answer of the
environment is the model's form of it (log entry 6). -/
def Obligations.ResetAbandonsTheOperation : Prop :=
  ∀ (i : Instr) (s u : State) (es : List Event) (k : Nat) (e : Event) (rest : List Answer),
    i.format = .desc128 → exec i { s with answers := [] } = .next u → u.trace = s.trace ++ accepted es →
    es[k]? = some e → s.answers = List.replicate k .accept ++ .reset :: rest →
    ∃ t, exec i s = .next t ∧ t.trace = s.trace ++ accepted (es.take k) ∧ t.codes = s.codes ∧ t.pc = 0 ∧
      t.mode = 0#3 ∧ t.ox = 35#16 ∧ t.fw = 170#16 ∧ t.oy = 0#16 ∧ t.fh = 320#16 ∧ t.winXs = 0#16 ∧
      t.winYs = 0#16 ∧ t.winXe = 0#16 ∧ t.winYe = 0#16 ∧ t.status = 0x00#8 ∧ t.rstOut = false ∧ t.blOut = false ∧
      t.offered = none

/-! ## The translator, the fill, the rasterizers -/

/-- 10_state R24: the numbers of `frame_of` and the comparison `mode < 4`. -/
def Obligations.FrameOfMode : Prop :=
  ∀ m : BitVec 3, frameOf m = if m.toNat < 4 then ⟨35#16, 170#16, 0#16, 320#16⟩ else ⟨0#16, 320#16, 35#16, 170#16⟩

/-- 20_memory R58, R60: inside the Frame Window the translation to 16 bits loses nothing, and logical positions are
the columns and rows of the frame. -/
def Obligations.TranslationInsideTheFrame : Prop :=
  ∀ (s : State) (x y : Int), FrameInv s → 0 ≤ x → x < s.fw.toNat → 0 ≤ y → y < s.fh.toNat →
    ((tx s x).toNat : Int) = x + s.ox.toNat ∧ ((ty s y).toNat : Int) = y + s.oy.toNat ∧
    (tx s x).toNat < 320 ∧ (ty s y).toNat < 320

/-- 42_pixel_region R155, 20_memory R74, 70_reset R260: the data transfers of a fill of `n` bytes are `ceil(n/256)`
data-mode transfers of 1 to 256 bytes whose concatenation is the colour repeated. -/
def Obligations.FillIsChunkedExactly : Prop :=
  ∀ (n : Nat) (c : Half), n % 2 = 0 →
    (chunkEvents n c).length = (n + 255) / 256 ∧
    (∀ e ∈ chunkEvents n c, ∃ bs, e = .xfer true bs ∧ 1 ≤ bs.length ∧ bs.length ≤ 256) ∧
    flat (chunkEvents n c) = (rep (be16 c) (n / 2)).map fun b => .inl (true, b)

/-- 42_pixel_region R160: with `w * h = 0` FILL_RECT and BLIT (LEN = 0) still send the window and the memory-write
command, five transfers, then no data, and end OK; with `w = 0` the end column is one less than the start, 0xFFFF
when `x + OX = 0` as well. The command bytes are the parameters of R88 (defaults: log entry 15), the window transfers
R150's, the status R237's. -/
def Obligations.EmptyRegionSendsNoData : Prop :=
  ∀ (x y w h c : Half) (s : State), s.Accepting → w.toNat * h.toNat = 0 →
    ∃ t u, exec (.fillRect x y w h c) s = .next t ∧ exec (.blit x y w h 0#32 []) s = .next u ∧
      t.trace = s.trace ++ accepted
        [.xfer false [s.params.cmdCaset], .xfer true (be16 (tx s x.toInt) ++ be16 (tx s (x.toInt + w.toNat - 1))),
         .xfer false [s.params.cmdRaset], .xfer true (be16 (ty s y.toInt) ++ be16 (ty s (y.toInt + h.toNat - 1))),
         .xfer false [s.params.cmdRamwr]] ∧
      u.trace = t.trace ∧ t.last = 0#3 ∧ u.last = 0#3 ∧
      (w = 0#16 → tx s (x.toInt + w.toNat - 1) = tx s x.toInt - 1#16) ∧
      (w = 0#16 → x.toInt + s.ox.toNat = 0 → tx s (x.toInt + w.toNat - 1) = 0xFFFF#16)

/-- 43_rasterizer R170, R172: how many points a line has, that they come one for each running coordinate by increasing
x (by increasing y for a steep line), and that swapping the end points gives the same list in the same order. -/
def Obligations.LineCountAndDirection : Prop :=
  ∀ x0 y0 x1 y1 : Int, ((linePoints x0 y0 x1 y1).length : Int) = max |x1 - x0| |y1 - y0| + 1 ∧
    (∀ (k : Nat) (p : Point), (linePoints x0 y0 x1 y1)[k]? = some p →
      (|y1 - y0| ≤ |x1 - x0| → p.1 = min x0 x1 + k) ∧ (|x1 - x0| < |y1 - y0| → p.2 = min y0 y1 + k)) ∧
    linePoints x1 y1 x0 y0 = linePoints x0 y0 x1 y1

/-- 43_rasterizer R172: the first and last points are the two end points, and every point is in their bounding
box. -/
def Obligations.LineJoinsItsEnds : Prop :=
  ∀ x0 y0 x1 y1 : Int,
    (((linePoints x0 y0 x1 y1).head? = some (x0, y0) ∧ (linePoints x0 y0 x1 y1).getLast? = some (x1, y1)) ∨
     ((linePoints x0 y0 x1 y1).head? = some (x1, y1) ∧ (linePoints x0 y0 x1 y1).getLast? = some (x0, y0))) ∧
    ∀ p ∈ linePoints x0 y0 x1 y1, min x0 x1 ≤ p.1 ∧ p.1 ≤ max x0 x1 ∧ min y0 y1 ≤ p.2 ∧ p.2 ≤ max y0 y1

/-- 43_rasterizer R170 ("classic Bresenham"): every plotted point is within half a pixel of the ideal line, measured
along the axis the line does not run along. -/
def Obligations.LineHugsTheIdealLine : Prop :=
  ∀ x0 y0 x1 y1 : Int, ∀ p ∈ linePoints x0 y0 x1 y1,
    2 * |(p.2 - y0) * (x1 - x0) - (p.1 - x0) * (y1 - y0)| ≤ max |x1 - x0| |y1 - y0|

/-- 43_rasterizer R174, R175: where the points of a circle lie and how many there are. The first four are the seed
points in order; after `k` turns the running x is `k` and the running y is `ys[k - 1]` (`r` at first), another turn comes
exactly while x is below y, and it plots the eight points of its new x and y; every point is within half a pixel of the
circle (the squared distance from the centre is at most `r * r + r`, and above `r * r - r` for a positive `r`); the loop
has run to its end (more turns add nothing); there are four points and eight for each turn, with the turn counts R175
gives for small radii. -/
def Obligations.CircleLoopRunsToItsEnd : Prop :=
  (∀ (xc yc : Int) (r : Nat),
    (circlePoints xc yc r).take 4 = [(xc, yc + r), (xc, yc - r), (xc + r, yc), (xc - r, yc)]) ∧
  (∀ (xc yc : Int) (r : Nat), ∃ ys : List Nat,
    (circlePoints xc yc r).drop 4 = ys.zipIdx.flatMap (fun t => octantPoints xc yc (t.2 + 1) t.1) ∧
    ∀ k y, (r :: ys)[k]? = some y → (k < ys.length ↔ k < y)) ∧
  (∀ (xc yc : Int) (r : Nat), ∀ p ∈ circlePoints xc yc r,
    (p.1 - xc) * (p.1 - xc) + (p.2 - yc) * (p.2 - yc) ≤ r * r + r ∧
    (0 < r → (r * r - r : Int) < (p.1 - xc) * (p.1 - xc) + (p.2 - yc) * (p.2 - yc))) ∧
  (∀ (xc yc : Int) (r n : Nat), r ≤ n →
    circleLoop xc yc n (1 - r) 1 (-2 * r) 0 r = circleLoop xc yc r (1 - r) 1 (-2 * r) 0 r) ∧
  (∀ (xc yc : Int) (r : Nat), ∃ k ≤ r, (circlePoints xc yc r).length = 4 + 8 * k) ∧
  (∀ xc yc : Int, (circlePoints xc yc 0).length = 4 ∧ (circlePoints xc yc 1).length = 12 ∧
    (circlePoints xc yc 2).length = 20 ∧ (circlePoints xc yc 3).length = 20 ∧ (circlePoints xc yc 5).length = 36)

/-- 43_rasterizer R175: the point set is symmetric about the centre under the reflections that generate all eight. -/
def Obligations.CircleIsSymmetric : Prop :=
  ∀ (xc yc : Int) (r : Nat), ∀ p ∈ circlePoints xc yc r,
    (2 * xc - p.1, p.2) ∈ circlePoints xc yc r ∧ (p.1, 2 * yc - p.2) ∈ circlePoints xc yc r ∧
    (xc + (p.2 - yc), yc + (p.1 - xc)) ∈ circlePoints xc yc r

/-! ## The panel: what is painted -/

/-- 20_memory R64: the four data bytes of an address command load the window register pair, high byte first. The
premise that no two commands share a byte is the model's (log entry 29). -/
def Obligations.AddressCommandsLoadTheWindow : Prop :=
  ∀ (cfg : Params) (p : Panel) (a b : Half), cfg.Distinct →
    p.feed cfg (.byte false cfg.cmdCaset :: (be16 a ++ be16 b).map (.byte true)) =
      { p with cmd := some cfg.cmdCaset, args := be16 a ++ be16 b, half := none, xs := a, xe := b } ∧
    p.feed cfg (.byte false cfg.cmdRaset :: (be16 a ++ be16 b).map (.byte true)) =
      { p with cmd := some cfg.cmdRaset, args := be16 a ++ be16 b, half := none, ys := a, ye := b }

/-- 20_memory R66: a memory write of exactly `w * h` pixels to a legal window paints them row by row, changes no
other pixel, and leaves the pointer at the window's start. After a cut on the wire no pixel has a known value until a
software reset (93_implementation_defined U1). Where the sink refuses a data byte (R64, U2, U3: the second byte of a pixel
when the window is inverted or outside the memory, a fifth address byte, a data byte when the current command takes none
or there is none) no pixel has a known value after it, and the sink keeps the meaning it had, so that the first clause
holds of the next memory write. When the sink has a meaning, where a refusal falls and what it leaves, and that no two
commands share a byte, are the model's reading (log entries 10, 19, 20 and 29). -/
def Obligations.MemoryWritePaintsTheWindow : Prop :=
  (∀ (cfg : Params) (p : Panel) (w h : Nat) (px : List Half), cfg.Distinct →
    p.meaningful = true → p.windowLegal cfg = true →
    p.xe.toNat = p.xs.toNat + w - 1 → p.ye.toNat = p.ys.toNat + h - 1 → 0 < w → 0 < h → px.length = w * h →
    ∃ q, p.feed cfg (.byte false cfg.cmdRamwr :: (px.flatMap be16).map (.byte true)) = q ∧ q.meaningful = true ∧
      q.col = p.xs ∧ q.row = p.ys ∧ q.half = none ∧
      (∀ i j, i < w → j < h →
        q.pixel (p.xs + BitVec.ofNat 16 i) (p.ys + BitVec.ofNat 16 j) = px[j * w + i]?) ∧
      (∀ col row : Half, ¬ (p.xs.toNat ≤ col.toNat ∧ col.toNat ≤ p.xe.toNat ∧ p.ys.toNat ≤ row.toNat ∧
        row.toNat ≤ p.ye.toNat) → q.pixel col row = p.pixel col row)) ∧
  (∀ (cfg : Params) (p : Panel) (items : List WireItem), .byte false cfg.cmdSwreset ∉ items →
    ∀ col row : Half, (p.feed cfg (.cut :: items)).pixel col row = none) ∧
  (∀ (cfg : Params) (p : Panel) (b : Byte), cfg.Distinct →
    ((p.cmd = some cfg.cmdRamwr ∧ p.half ≠ none ∧
        (p.xe.toNat < p.xs.toNat ∨ p.ye.toNat < p.ys.toNat ∨
          cfg.panelCols ≤ p.xe.toNat ∨ cfg.panelRows ≤ p.ye.toNat)) ∨
     ((p.cmd = some cfg.cmdCaset ∨ p.cmd = some cfg.cmdRaset) ∧ 4 ≤ p.args.length) ∨
     (∀ c ∈ [cfg.cmdCaset, cfg.cmdRaset, cfg.cmdRamwr, cfg.cmdMadctl, cfg.cmdColmod], p.cmd ≠ some c)) →
    (p.receive cfg (.byte true b)).meaningful = p.meaningful ∧
      ∀ col row : Half, (p.receive cfg (.byte true b)).pixel col row = none)

/-- 42_pixel_region R159: a FILL_RECT within the caller's contract paints every pixel of its rectangle and no other,
and a CLEAR every pixel of the Frame Window and no other, once the panel has received it, where the rectangle lies inside
the controller's memory; where it does not, the sink refuses that write and no pixel has a known value after it (20_memory
R64, U2). Either way the sink keeps its meaning, so that the next operation paints. When the sink has a meaning, that R64
holds for the Frame Window of modes 4 to 7 too, what a refusal leaves, and that no two commands share a byte, are the
model's reading (log entries 10, 12, 20 and 29). -/
def Obligations.FillRectAndClearPaintTheirRectangles : Prop :=
  (∀ (x y w h c : Half) (s : State), s.params.Distinct → s.Accepting → FrameInv s → s.wire = [] →
    s.panel.meaningful = true → 0 < w.toNat → 0 < h.toNat →
    Contract s x.toInt y.toInt (x.toInt + w.toNat - 1) (y.toInt + h.toNat - 1) →
    ∃ t, exec (.fillRect x y w h c) s = .next t ∧ t.settled.panel.meaningful = true ∧
      (CornerInMemory s (x.toInt + w.toNat - 1) (y.toInt + h.toNat - 1) →
        ∀ col row : Half, t.settled.panel.pixel col row =
          if x.toInt + s.ox.toNat ≤ col.toNat ∧ (col.toNat : Int) < x.toInt + s.ox.toNat + w.toNat ∧
             y.toInt + s.oy.toNat ≤ row.toNat ∧ (row.toNat : Int) < y.toInt + s.oy.toNat + h.toNat
          then some c else s.panel.pixel col row) ∧
      (¬ CornerInMemory s (x.toInt + w.toNat - 1) (y.toInt + h.toNat - 1) →
        ∀ col row : Half, t.settled.panel.pixel col row = none)) ∧
  (∀ (c : Half) (s : State), s.params.Distinct → s.Accepting → FrameInv s → s.wire = [] →
    s.panel.meaningful = true →
    ∃ t, exec (.clear c) s = .next t ∧ t.settled.panel.meaningful = true ∧
      (CornerInMemory s (s.fw.toNat - 1) (s.fh.toNat - 1) →
        ∀ col row : Half, t.settled.panel.pixel col row =
          if s.ox.toNat ≤ col.toNat ∧ col.toNat < s.ox.toNat + s.fw.toNat ∧
             s.oy.toNat ≤ row.toNat ∧ row.toNat < s.oy.toNat + s.fh.toNat
          then some c else s.panel.pixel col row) ∧
      (¬ CornerInMemory s (s.fw.toNat - 1) (s.fh.toNat - 1) →
        ∀ col row : Half, t.settled.panel.pixel col row = none))

/-- 42_pixel_region R159: a BLIT of the right length within the caller's contract paints pixel `(x+i, y+j)` with
payload bytes `2*(j*w+i)` and the one after it, and no other pixel, once the panel has received it, where the region lies
inside the controller's memory; where it does not, no pixel has a known value, and the next operation paints again (log
entries 10, 12, 20 and 29 as above). -/
def Obligations.BlitPaintsItsPayload : Prop :=
  ∀ (x y w h : Half) (len : Word32) (payload : List Byte) (s : State),
    s.params.Distinct → s.Accepting → FrameInv s → s.wire = [] → s.panel.meaningful = true →
    0 < w.toNat → 0 < h.toNat →
    Contract s x.toInt y.toInt (x.toInt + w.toNat - 1) (y.toInt + h.toNat - 1) →
    len.toNat = w.toNat * h.toNat * 2 → payload.length = len.toNat →
    ∃ t, exec (.blit x y w h len payload) s = .next t ∧ t.settled.panel.meaningful = true ∧
      (CornerInMemory s (x.toInt + w.toNat - 1) (y.toInt + h.toNat - 1) →
        (∀ (i j : Nat) (hi lo : Byte), i < w.toNat → j < h.toNat → payload[2 * (j * w.toNat + i)]? = some hi →
          payload[2 * (j * w.toNat + i) + 1]? = some lo →
          t.settled.panel.pixel (tx s (x.toInt + i)) (ty s (y.toInt + j)) = some (ofBe16 hi lo)) ∧
        ∀ col row : Half,
          ¬ (x.toInt + s.ox.toNat ≤ col.toNat ∧ (col.toNat : Int) < x.toInt + s.ox.toNat + w.toNat ∧
             y.toInt + s.oy.toNat ≤ row.toNat ∧ (row.toNat : Int) < y.toInt + s.oy.toNat + h.toNat) →
          t.settled.panel.pixel col row = s.panel.pixel col row) ∧
      (¬ CornerInMemory s (x.toInt + w.toNat - 1) (y.toInt + h.toNat - 1) →
        ∀ col row : Half, t.settled.panel.pixel col row = none)

/-- 42_pixel_region R159: a PIXEL within the caller's contract paints that pixel and no other, where it is a cell of the
controller's memory; where it is not, no pixel has a known value, and the next operation paints again (log entries 10, 12,
20 and 29 as above). -/
def Obligations.PixelPaintsItsPixel : Prop :=
  ∀ (x y c : Half) (s : State), s.params.Distinct → s.Accepting → FrameInv s → s.wire = [] →
    s.panel.meaningful = true →
    Contract s x.toInt y.toInt x.toInt y.toInt →
    ∃ t, exec (.pixel x y c) s = .next t ∧ t.settled.panel.meaningful = true ∧
      (CornerInMemory s x.toInt y.toInt →
        ∀ col row : Half, t.settled.panel.pixel col row =
          if (col.toNat : Int) = x.toInt + s.ox.toNat ∧ (row.toNat : Int) = y.toInt + s.oy.toNat
          then some c else s.panel.pixel col row) ∧
      (¬ CornerInMemory s x.toInt y.toInt → ∀ col row : Half, t.settled.panel.pixel col row = none)

/-- 70_reset R253: whatever the machine and the panel were before, after an accepted INIT of a valid mode the whole
Frame Window is black, once the panel has received it, where that window lies inside the controller's memory (of the
default 240 by 320, the Frame Window of modes 0 to 3); where it does not, the sink refuses that fill (R64). Either way the
sink has a meaning afterwards, so that later operations paint. That it has one from the software reset on, that R64 holds
for the Frame Window of modes 4 to 7 too, what a refusal leaves, and that no two commands share a byte, are the model's
reading (log entries 10, 12, 20 and 29). -/
def Obligations.InitLeavesTheFrameBlack : Prop :=
  ∀ (mode : Half) (s : State), s.params.Distinct → s.Accepting → 0 ≤ mode.toInt → mode.toInt ≤ 7 →
    ∃ t, exec (.init mode) s = .next t ∧ t.params = s.params ∧ t.settled.panel.meaningful = true ∧
      (CornerInMemory t (t.fw.toNat - 1) (t.fh.toNat - 1) →
        ∀ col row : Half, t.ox.toNat ≤ col.toNat → col.toNat < t.ox.toNat + t.fw.toNat →
          t.oy.toNat ≤ row.toNat → row.toNat < t.oy.toNat + t.fh.toNat →
          t.settled.panel.pixel col row = some 0x0000#16) ∧
      (¬ CornerInMemory t (t.fw.toNat - 1) (t.fh.toNat - 1) →
        ∀ col row : Half, t.settled.panel.pixel col row = none)

/-! ## Invariants of every step -/

/-- The reset state meets every invariant. -/
def Obligations.ResetMeetsTheInvariants : Prop :=
  FrameInv State.reset ∧ StatusInv State.reset ∧ PcInv State.reset ∧ MemoryInv State.reset ∧ TraceInv State.reset

/-- 10_state R23: every step keeps the Frame Window registers the frame of MODE. -/
def Obligations.StepKeepsTheFrameOfMode : Prop :=
  ∀ s t : State, FrameInv s → step s = .next t → FrameInv t

/-- 10_state R26: every step keeps STATUS legal. -/
def Obligations.StepKeepsStatusLegal : Prop :=
  ∀ s t : State, StatusInv s → step s = .next t → StatusInv t

/-- 10_state R21: every step keeps `pc` a multiple of 16. -/
def Obligations.StepKeepsPcAligned : Prop :=
  ∀ s t : State, PcInv s → step s = .next t → PcInv t

/-- Every step keeps both memories in their canonical form, and none of them writes the descriptor stream
(20_memory R72) or the parameters (00_scope R10, R13). -/
def Obligations.StepKeepsMemoriesCanonical : Prop :=
  ∀ s t : State, step s = .next t → t.stream = s.stream ∧ t.params = s.params ∧ (MemoryInv s → MemoryInv t)

/-- 40_transport R110, R112, 30_encoding R87, R88: every step keeps the trace legal; so the sequencer never sends an
empty transfer, nor a command outside its list (inversion-on, display-off and the two scroll commands among
them), and no DELAY fails. -/
def Obligations.StepKeepsTheTraceLegal : Prop :=
  ∀ s t : State, TraceInv s → step s = .next t → TraceInv t

/-! ## What an operation does not depend on -/

/-- 10_state R28, R29, R33, 70_reset R254, 93_implementation_defined U5: an operation reads nothing back from the panel,
executes identically whatever STATUS holds (INIT_DONE among it), and does not depend on what TBUF held; only
that field itself can differ afterwards. -/
def Obligations.OperationsReadNoPanelNoStatusNoStaleTbuf : Prop :=
  ∀ (i : Instr) (s : State), i.format = .desc128 → ∃ t, exec i s = .next t ∧
    (∀ p : Panel, exec i { s with panel := p } = .next { t with panel := p }) ∧
    (∀ v : Byte, ∃ w, exec i { s with status := v } = .next { t with status := w }) ∧
    (∀ b : Vector Byte Config.tbufSize, ∃ b', exec i { s with tbuf := b } = .next { t with tbuf := b' })

/-! ## The assembler and the software around the block -/

/-- 30_encoding R90, 43_rasterizer R176 to R178, 70_reset R252: the expansion of every pseudo-instruction, and when
the assembler rejects RECT. -/
def Obligations.PseudoInstructionExpansions : Prop :=
  Pseudo.clearBlack.expand = some [.clear 0x0000#16] ∧
  (∀ x y n c : Half, (Pseudo.hline x y n c).expand = some [.fillRect x y n 1#16 c] ∧
    (Pseudo.vline x y n c).expand = some [.fillRect x y 1#16 n c]) ∧
  (∀ m : Half, (Pseudo.construct m).expand = some [.init m]) ∧
  ∀ x y w h c : Half,
    (y.toInt + h.toNat - 1 ≤ 32767 ∧ x.toInt + w.toNat - 1 ≤ 32767 ∧ -32768 ≤ y.toInt + h.toNat - 1 ∧
      -32768 ≤ x.toInt + w.toNat - 1 →
      ∃ b r : Half, b.toInt = y.toInt + h.toNat - 1 ∧ r.toInt = x.toInt + w.toNat - 1 ∧
        (Pseudo.rect x y w h c).expand = some [.fillRect x y w 1#16 c, .fillRect x b w 1#16 c,
          .fillRect x y 1#16 h c, .fillRect r y 1#16 h c]) ∧
    (¬ (y.toInt + h.toNat - 1 ≤ 32767 ∧ x.toInt + w.toNat - 1 ≤ 32767 ∧ -32768 ≤ y.toInt + h.toNat - 1 ∧
      -32768 ≤ x.toInt + w.toNat - 1) → (Pseudo.rect x y w h c).expand = none)

/-- 47_surrounding_software R196, R199: the glyph packer on any byte, and the document's two extremes. -/
def Obligations.GlyphPackerRoundTrip : Prop :=
  ∀ fg bg : Half, packByte 0xFF#8 fg bg = List.replicate 8 fg ∧ packByte 0x00#8 fg bg = List.replicate 8 bg ∧
    ∀ (g : Byte) (k : Nat), k < 8 → (packByte g fg bg)[k]? = some (if g.getLsbD (7 - k) then fg else bg)
end

