-- ==== Sys2Proof/Laws/State.lean ====
section
/-! SUPPORT. One lemma per field per update of State, each true by rfl, so that no proof unfolds a record
update. -/

namespace Sys2Proof.Machine

/-! ### BUSY -/

@[simp] theorem State.setBusy_pc (b : Bool) (s : State) : (s.setBusy b).pc = s.pc := rfl
@[simp] theorem State.setBusy_mode (b : Bool) (s : State) : (s.setBusy b).mode = s.mode := rfl
@[simp] theorem State.setBusy_ox (b : Bool) (s : State) : (s.setBusy b).ox = s.ox := rfl
@[simp] theorem State.setBusy_fw (b : Bool) (s : State) : (s.setBusy b).fw = s.fw := rfl
@[simp] theorem State.setBusy_oy (b : Bool) (s : State) : (s.setBusy b).oy = s.oy := rfl
@[simp] theorem State.setBusy_fh (b : Bool) (s : State) : (s.setBusy b).fh = s.fh := rfl
@[simp] theorem State.setBusy_winXs (b : Bool) (s : State) : (s.setBusy b).winXs = s.winXs := rfl
@[simp] theorem State.setBusy_winYs (b : Bool) (s : State) : (s.setBusy b).winYs = s.winYs := rfl
@[simp] theorem State.setBusy_winXe (b : Bool) (s : State) : (s.setBusy b).winXe = s.winXe := rfl
@[simp] theorem State.setBusy_winYe (b : Bool) (s : State) : (s.setBusy b).winYe = s.winYe := rfl
@[simp] theorem State.setBusy_status (b : Bool) (s : State) : (s.setBusy b).status = putBit 0 b s.status := rfl
@[simp] theorem State.setBusy_tbuf (b : Bool) (s : State) : (s.setBusy b).tbuf = s.tbuf := rfl
@[simp] theorem State.setBusy_rstOut (b : Bool) (s : State) : (s.setBusy b).rstOut = s.rstOut := rfl
@[simp] theorem State.setBusy_blOut (b : Bool) (s : State) : (s.setBusy b).blOut = s.blOut := rfl
@[simp] theorem State.setBusy_offered (b : Bool) (s : State) : (s.setBusy b).offered = s.offered := rfl
@[simp] theorem State.setBusy_stream (b : Bool) (s : State) : (s.setBusy b).stream = s.stream := rfl
@[simp] theorem State.setBusy_answers (b : Bool) (s : State) : (s.setBusy b).answers = s.answers := rfl
@[simp] theorem State.setBusy_resetRequest (b : Bool) (s : State) : (s.setBusy b).resetRequest = s.resetRequest := rfl
@[simp] theorem State.setBusy_trace (b : Bool) (s : State) : (s.setBusy b).trace = s.trace := rfl
@[simp] theorem State.setBusy_codes (b : Bool) (s : State) : (s.setBusy b).codes = s.codes := rfl
@[simp] theorem State.setBusy_wire (b : Bool) (s : State) : (s.setBusy b).wire = s.wire := rfl
@[simp] theorem State.setBusy_panel (b : Bool) (s : State) : (s.setBusy b).panel = s.panel := rfl
@[simp] theorem State.setBusy_params (b : Bool) (s : State) : (s.setBusy b).params = s.params := rfl

/-! ### INIT_DONE -/

@[simp] theorem State.setInitDone_pc (b : Bool) (s : State) : (s.setInitDone b).pc = s.pc := rfl
@[simp] theorem State.setInitDone_mode (b : Bool) (s : State) : (s.setInitDone b).mode = s.mode := rfl
@[simp] theorem State.setInitDone_ox (b : Bool) (s : State) : (s.setInitDone b).ox = s.ox := rfl
@[simp] theorem State.setInitDone_fw (b : Bool) (s : State) : (s.setInitDone b).fw = s.fw := rfl
@[simp] theorem State.setInitDone_oy (b : Bool) (s : State) : (s.setInitDone b).oy = s.oy := rfl
@[simp] theorem State.setInitDone_fh (b : Bool) (s : State) : (s.setInitDone b).fh = s.fh := rfl
@[simp] theorem State.setInitDone_winXs (b : Bool) (s : State) : (s.setInitDone b).winXs = s.winXs := rfl
@[simp] theorem State.setInitDone_winYs (b : Bool) (s : State) : (s.setInitDone b).winYs = s.winYs := rfl
@[simp] theorem State.setInitDone_winXe (b : Bool) (s : State) : (s.setInitDone b).winXe = s.winXe := rfl
@[simp] theorem State.setInitDone_winYe (b : Bool) (s : State) : (s.setInitDone b).winYe = s.winYe := rfl
@[simp] theorem State.setInitDone_status (b : Bool) (s : State) : (s.setInitDone b).status = putBit 1 b s.status := rfl
@[simp] theorem State.setInitDone_tbuf (b : Bool) (s : State) : (s.setInitDone b).tbuf = s.tbuf := rfl
@[simp] theorem State.setInitDone_rstOut (b : Bool) (s : State) : (s.setInitDone b).rstOut = s.rstOut := rfl
@[simp] theorem State.setInitDone_blOut (b : Bool) (s : State) : (s.setInitDone b).blOut = s.blOut := rfl
@[simp] theorem State.setInitDone_offered (b : Bool) (s : State) : (s.setInitDone b).offered = s.offered := rfl
@[simp] theorem State.setInitDone_stream (b : Bool) (s : State) : (s.setInitDone b).stream = s.stream := rfl
@[simp] theorem State.setInitDone_answers (b : Bool) (s : State) : (s.setInitDone b).answers = s.answers := rfl
@[simp] theorem State.setInitDone_resetRequest (b : Bool) (s : State) : (s.setInitDone b).resetRequest = s.resetRequest := rfl
@[simp] theorem State.setInitDone_trace (b : Bool) (s : State) : (s.setInitDone b).trace = s.trace := rfl
@[simp] theorem State.setInitDone_codes (b : Bool) (s : State) : (s.setInitDone b).codes = s.codes := rfl
@[simp] theorem State.setInitDone_wire (b : Bool) (s : State) : (s.setInitDone b).wire = s.wire := rfl
@[simp] theorem State.setInitDone_panel (b : Bool) (s : State) : (s.setInitDone b).panel = s.panel := rfl
@[simp] theorem State.setInitDone_params (b : Bool) (s : State) : (s.setInitDone b).params = s.params := rfl

/-! ### FATAL -/

@[simp] theorem State.setFatal_pc (b : Bool) (s : State) : (s.setFatal b).pc = s.pc := rfl
@[simp] theorem State.setFatal_mode (b : Bool) (s : State) : (s.setFatal b).mode = s.mode := rfl
@[simp] theorem State.setFatal_ox (b : Bool) (s : State) : (s.setFatal b).ox = s.ox := rfl
@[simp] theorem State.setFatal_fw (b : Bool) (s : State) : (s.setFatal b).fw = s.fw := rfl
@[simp] theorem State.setFatal_oy (b : Bool) (s : State) : (s.setFatal b).oy = s.oy := rfl
@[simp] theorem State.setFatal_fh (b : Bool) (s : State) : (s.setFatal b).fh = s.fh := rfl
@[simp] theorem State.setFatal_winXs (b : Bool) (s : State) : (s.setFatal b).winXs = s.winXs := rfl
@[simp] theorem State.setFatal_winYs (b : Bool) (s : State) : (s.setFatal b).winYs = s.winYs := rfl
@[simp] theorem State.setFatal_winXe (b : Bool) (s : State) : (s.setFatal b).winXe = s.winXe := rfl
@[simp] theorem State.setFatal_winYe (b : Bool) (s : State) : (s.setFatal b).winYe = s.winYe := rfl
@[simp] theorem State.setFatal_status (b : Bool) (s : State) : (s.setFatal b).status = putBit 2 b s.status := rfl
@[simp] theorem State.setFatal_tbuf (b : Bool) (s : State) : (s.setFatal b).tbuf = s.tbuf := rfl
@[simp] theorem State.setFatal_rstOut (b : Bool) (s : State) : (s.setFatal b).rstOut = s.rstOut := rfl
@[simp] theorem State.setFatal_blOut (b : Bool) (s : State) : (s.setFatal b).blOut = s.blOut := rfl
@[simp] theorem State.setFatal_offered (b : Bool) (s : State) : (s.setFatal b).offered = s.offered := rfl
@[simp] theorem State.setFatal_stream (b : Bool) (s : State) : (s.setFatal b).stream = s.stream := rfl
@[simp] theorem State.setFatal_answers (b : Bool) (s : State) : (s.setFatal b).answers = s.answers := rfl
@[simp] theorem State.setFatal_resetRequest (b : Bool) (s : State) : (s.setFatal b).resetRequest = s.resetRequest := rfl
@[simp] theorem State.setFatal_trace (b : Bool) (s : State) : (s.setFatal b).trace = s.trace := rfl
@[simp] theorem State.setFatal_codes (b : Bool) (s : State) : (s.setFatal b).codes = s.codes := rfl
@[simp] theorem State.setFatal_wire (b : Bool) (s : State) : (s.setFatal b).wire = s.wire := rfl
@[simp] theorem State.setFatal_panel (b : Bool) (s : State) : (s.setFatal b).panel = s.panel := rfl
@[simp] theorem State.setFatal_params (b : Bool) (s : State) : (s.setFatal b).params = s.params := rfl

/-! ### DIAG_MODE -/

@[simp] theorem State.setDiagMode_pc (b : Bool) (s : State) : (s.setDiagMode b).pc = s.pc := rfl
@[simp] theorem State.setDiagMode_mode (b : Bool) (s : State) : (s.setDiagMode b).mode = s.mode := rfl
@[simp] theorem State.setDiagMode_ox (b : Bool) (s : State) : (s.setDiagMode b).ox = s.ox := rfl
@[simp] theorem State.setDiagMode_fw (b : Bool) (s : State) : (s.setDiagMode b).fw = s.fw := rfl
@[simp] theorem State.setDiagMode_oy (b : Bool) (s : State) : (s.setDiagMode b).oy = s.oy := rfl
@[simp] theorem State.setDiagMode_fh (b : Bool) (s : State) : (s.setDiagMode b).fh = s.fh := rfl
@[simp] theorem State.setDiagMode_winXs (b : Bool) (s : State) : (s.setDiagMode b).winXs = s.winXs := rfl
@[simp] theorem State.setDiagMode_winYs (b : Bool) (s : State) : (s.setDiagMode b).winYs = s.winYs := rfl
@[simp] theorem State.setDiagMode_winXe (b : Bool) (s : State) : (s.setDiagMode b).winXe = s.winXe := rfl
@[simp] theorem State.setDiagMode_winYe (b : Bool) (s : State) : (s.setDiagMode b).winYe = s.winYe := rfl
@[simp] theorem State.setDiagMode_status (b : Bool) (s : State) : (s.setDiagMode b).status = putBit 3 b s.status := rfl
@[simp] theorem State.setDiagMode_tbuf (b : Bool) (s : State) : (s.setDiagMode b).tbuf = s.tbuf := rfl
@[simp] theorem State.setDiagMode_rstOut (b : Bool) (s : State) : (s.setDiagMode b).rstOut = s.rstOut := rfl
@[simp] theorem State.setDiagMode_blOut (b : Bool) (s : State) : (s.setDiagMode b).blOut = s.blOut := rfl
@[simp] theorem State.setDiagMode_offered (b : Bool) (s : State) : (s.setDiagMode b).offered = s.offered := rfl
@[simp] theorem State.setDiagMode_stream (b : Bool) (s : State) : (s.setDiagMode b).stream = s.stream := rfl
@[simp] theorem State.setDiagMode_answers (b : Bool) (s : State) : (s.setDiagMode b).answers = s.answers := rfl
@[simp] theorem State.setDiagMode_resetRequest (b : Bool) (s : State) : (s.setDiagMode b).resetRequest = s.resetRequest := rfl
@[simp] theorem State.setDiagMode_trace (b : Bool) (s : State) : (s.setDiagMode b).trace = s.trace := rfl
@[simp] theorem State.setDiagMode_codes (b : Bool) (s : State) : (s.setDiagMode b).codes = s.codes := rfl
@[simp] theorem State.setDiagMode_wire (b : Bool) (s : State) : (s.setDiagMode b).wire = s.wire := rfl
@[simp] theorem State.setDiagMode_panel (b : Bool) (s : State) : (s.setDiagMode b).panel = s.panel := rfl
@[simp] theorem State.setDiagMode_params (b : Bool) (s : State) : (s.setDiagMode b).params = s.params := rfl

/-! ### LAST -/

@[simp] theorem State.setLast_pc (c : StatusCode) (s : State) : (s.setLast c).pc = s.pc := rfl
@[simp] theorem State.setLast_mode (c : StatusCode) (s : State) : (s.setLast c).mode = s.mode := rfl
@[simp] theorem State.setLast_ox (c : StatusCode) (s : State) : (s.setLast c).ox = s.ox := rfl
@[simp] theorem State.setLast_fw (c : StatusCode) (s : State) : (s.setLast c).fw = s.fw := rfl
@[simp] theorem State.setLast_oy (c : StatusCode) (s : State) : (s.setLast c).oy = s.oy := rfl
@[simp] theorem State.setLast_fh (c : StatusCode) (s : State) : (s.setLast c).fh = s.fh := rfl
@[simp] theorem State.setLast_winXs (c : StatusCode) (s : State) : (s.setLast c).winXs = s.winXs := rfl
@[simp] theorem State.setLast_winYs (c : StatusCode) (s : State) : (s.setLast c).winYs = s.winYs := rfl
@[simp] theorem State.setLast_winXe (c : StatusCode) (s : State) : (s.setLast c).winXe = s.winXe := rfl
@[simp] theorem State.setLast_winYe (c : StatusCode) (s : State) : (s.setLast c).winYe = s.winYe := rfl
@[simp] theorem State.setLast_status (c : StatusCode) (s : State) : (s.setLast c).status = putLast c.bits s.status := rfl
@[simp] theorem State.setLast_tbuf (c : StatusCode) (s : State) : (s.setLast c).tbuf = s.tbuf := rfl
@[simp] theorem State.setLast_rstOut (c : StatusCode) (s : State) : (s.setLast c).rstOut = s.rstOut := rfl
@[simp] theorem State.setLast_blOut (c : StatusCode) (s : State) : (s.setLast c).blOut = s.blOut := rfl
@[simp] theorem State.setLast_offered (c : StatusCode) (s : State) : (s.setLast c).offered = s.offered := rfl
@[simp] theorem State.setLast_stream (c : StatusCode) (s : State) : (s.setLast c).stream = s.stream := rfl
@[simp] theorem State.setLast_answers (c : StatusCode) (s : State) : (s.setLast c).answers = s.answers := rfl
@[simp] theorem State.setLast_resetRequest (c : StatusCode) (s : State) : (s.setLast c).resetRequest = s.resetRequest := rfl
@[simp] theorem State.setLast_trace (c : StatusCode) (s : State) : (s.setLast c).trace = s.trace := rfl
@[simp] theorem State.setLast_codes (c : StatusCode) (s : State) : (s.setLast c).codes = s.codes := rfl
@[simp] theorem State.setLast_wire (c : StatusCode) (s : State) : (s.setLast c).wire = s.wire := rfl
@[simp] theorem State.setLast_panel (c : StatusCode) (s : State) : (s.setLast c).panel = s.panel := rfl
@[simp] theorem State.setLast_params (c : StatusCode) (s : State) : (s.setLast c).params = s.params := rfl

/-! ### Accepting a descriptor -/

@[simp] theorem accept_pc (s : State) : (accept s).pc = s.pc := rfl
@[simp] theorem accept_mode (s : State) : (accept s).mode = s.mode := rfl
@[simp] theorem accept_ox (s : State) : (accept s).ox = s.ox := rfl
@[simp] theorem accept_fw (s : State) : (accept s).fw = s.fw := rfl
@[simp] theorem accept_oy (s : State) : (accept s).oy = s.oy := rfl
@[simp] theorem accept_fh (s : State) : (accept s).fh = s.fh := rfl
@[simp] theorem accept_winXs (s : State) : (accept s).winXs = s.winXs := rfl
@[simp] theorem accept_winYs (s : State) : (accept s).winYs = s.winYs := rfl
@[simp] theorem accept_winXe (s : State) : (accept s).winXe = s.winXe := rfl
@[simp] theorem accept_winYe (s : State) : (accept s).winYe = s.winYe := rfl
@[simp] theorem accept_status (s : State) : (accept s).status = putBit 0 true s.status := rfl
@[simp] theorem accept_tbuf (s : State) : (accept s).tbuf = s.tbuf := rfl
@[simp] theorem accept_rstOut (s : State) : (accept s).rstOut = s.rstOut := rfl
@[simp] theorem accept_blOut (s : State) : (accept s).blOut = s.blOut := rfl
@[simp] theorem accept_offered (s : State) : (accept s).offered = s.offered := rfl
@[simp] theorem accept_stream (s : State) : (accept s).stream = s.stream := rfl
@[simp] theorem accept_answers (s : State) : (accept s).answers = s.answers := rfl
@[simp] theorem accept_resetRequest (s : State) : (accept s).resetRequest = s.resetRequest := rfl
@[simp] theorem accept_trace (s : State) : (accept s).trace = s.trace := rfl
@[simp] theorem accept_codes (s : State) : (accept s).codes = s.codes := rfl
@[simp] theorem accept_wire (s : State) : (accept s).wire = s.wire := rfl
@[simp] theorem accept_panel (s : State) : (accept s).panel = s.panel := rfl
@[simp] theorem accept_params (s : State) : (accept s).params = s.params := rfl

/-! ### Handing an event over -/

@[simp] theorem handOver_pc (e : Event) (s : State) : (handOver e s).pc = s.pc := rfl
@[simp] theorem handOver_mode (e : Event) (s : State) : (handOver e s).mode = s.mode := rfl
@[simp] theorem handOver_ox (e : Event) (s : State) : (handOver e s).ox = s.ox := rfl
@[simp] theorem handOver_fw (e : Event) (s : State) : (handOver e s).fw = s.fw := rfl
@[simp] theorem handOver_oy (e : Event) (s : State) : (handOver e s).oy = s.oy := rfl
@[simp] theorem handOver_fh (e : Event) (s : State) : (handOver e s).fh = s.fh := rfl
@[simp] theorem handOver_winXs (e : Event) (s : State) : (handOver e s).winXs = s.winXs := rfl
@[simp] theorem handOver_winYs (e : Event) (s : State) : (handOver e s).winYs = s.winYs := rfl
@[simp] theorem handOver_winXe (e : Event) (s : State) : (handOver e s).winXe = s.winXe := rfl
@[simp] theorem handOver_winYe (e : Event) (s : State) : (handOver e s).winYe = s.winYe := rfl
@[simp] theorem handOver_status (e : Event) (s : State) : (handOver e s).status = s.status := rfl
@[simp] theorem handOver_tbuf (e : Event) (s : State) : (handOver e s).tbuf = s.tbuf := rfl
@[simp] theorem handOver_rstOut (e : Event) (s : State) : (handOver e s).rstOut = s.rstOut := rfl
@[simp] theorem handOver_blOut (e : Event) (s : State) : (handOver e s).blOut = s.blOut := rfl
@[simp] theorem handOver_offered (e : Event) (s : State) : (handOver e s).offered = s.offered := rfl
@[simp] theorem handOver_stream (e : Event) (s : State) : (handOver e s).stream = s.stream := rfl
@[simp] theorem handOver_answers (e : Event) (s : State) : (handOver e s).answers = s.answers := rfl
@[simp] theorem handOver_resetRequest (e : Event) (s : State) : (handOver e s).resetRequest = s.resetRequest := rfl
@[simp] theorem handOver_trace (e : Event) (s : State) : (handOver e s).trace = s.trace ++ [{ event := e }] := rfl
@[simp] theorem handOver_codes (e : Event) (s : State) : (handOver e s).codes = s.codes := rfl
@[simp] theorem handOver_wire (e : Event) (s : State) : (handOver e s).wire = s.wire ++ e.onWire := rfl
@[simp] theorem handOver_panel (e : Event) (s : State) : (handOver e s).panel = s.panel := rfl
@[simp] theorem handOver_params (e : Event) (s : State) : (handOver e s).params = s.params := rfl

/-! ### An event cut short -/

@[simp] theorem cutShort_pc (s : State) : (cutShort s).pc = s.pc := rfl
@[simp] theorem cutShort_mode (s : State) : (cutShort s).mode = s.mode := rfl
@[simp] theorem cutShort_ox (s : State) : (cutShort s).ox = s.ox := rfl
@[simp] theorem cutShort_fw (s : State) : (cutShort s).fw = s.fw := rfl
@[simp] theorem cutShort_oy (s : State) : (cutShort s).oy = s.oy := rfl
@[simp] theorem cutShort_fh (s : State) : (cutShort s).fh = s.fh := rfl
@[simp] theorem cutShort_winXs (s : State) : (cutShort s).winXs = s.winXs := rfl
@[simp] theorem cutShort_winYs (s : State) : (cutShort s).winYs = s.winYs := rfl
@[simp] theorem cutShort_winXe (s : State) : (cutShort s).winXe = s.winXe := rfl
@[simp] theorem cutShort_winYe (s : State) : (cutShort s).winYe = s.winYe := rfl
@[simp] theorem cutShort_status (s : State) : (cutShort s).status = s.status := rfl
@[simp] theorem cutShort_tbuf (s : State) : (cutShort s).tbuf = s.tbuf := rfl
@[simp] theorem cutShort_rstOut (s : State) : (cutShort s).rstOut = s.rstOut := rfl
@[simp] theorem cutShort_blOut (s : State) : (cutShort s).blOut = s.blOut := rfl
@[simp] theorem cutShort_offered (s : State) : (cutShort s).offered = s.offered := rfl
@[simp] theorem cutShort_stream (s : State) : (cutShort s).stream = s.stream := rfl
@[simp] theorem cutShort_answers (s : State) : (cutShort s).answers = s.answers := rfl
@[simp] theorem cutShort_resetRequest (s : State) : (cutShort s).resetRequest = s.resetRequest := rfl
@[simp] theorem cutShort_trace (s : State) : (cutShort s).trace = s.trace := rfl
@[simp] theorem cutShort_codes (s : State) : (cutShort s).codes = s.codes := rfl
@[simp] theorem cutShort_wire (s : State) : (cutShort s).wire = s.wire ++ [.cut] := rfl
@[simp] theorem cutShort_panel (s : State) : (cutShort s).panel = s.panel := rfl
@[simp] theorem cutShort_params (s : State) : (cutShort s).params = s.params := rfl

/-! ### A stalled event -/

@[simp] theorem stallOn_pc (e : Event) (s : State) : (stallOn e s).pc = s.pc := rfl
@[simp] theorem stallOn_mode (e : Event) (s : State) : (stallOn e s).mode = s.mode := rfl
@[simp] theorem stallOn_ox (e : Event) (s : State) : (stallOn e s).ox = s.ox := rfl
@[simp] theorem stallOn_fw (e : Event) (s : State) : (stallOn e s).fw = s.fw := rfl
@[simp] theorem stallOn_oy (e : Event) (s : State) : (stallOn e s).oy = s.oy := rfl
@[simp] theorem stallOn_fh (e : Event) (s : State) : (stallOn e s).fh = s.fh := rfl
@[simp] theorem stallOn_winXs (e : Event) (s : State) : (stallOn e s).winXs = s.winXs := rfl
@[simp] theorem stallOn_winYs (e : Event) (s : State) : (stallOn e s).winYs = s.winYs := rfl
@[simp] theorem stallOn_winXe (e : Event) (s : State) : (stallOn e s).winXe = s.winXe := rfl
@[simp] theorem stallOn_winYe (e : Event) (s : State) : (stallOn e s).winYe = s.winYe := rfl
@[simp] theorem stallOn_status (e : Event) (s : State) : (stallOn e s).status = s.status := rfl
@[simp] theorem stallOn_tbuf (e : Event) (s : State) : (stallOn e s).tbuf = s.tbuf := rfl
@[simp] theorem stallOn_rstOut (e : Event) (s : State) : (stallOn e s).rstOut = s.rstOut := rfl
@[simp] theorem stallOn_blOut (e : Event) (s : State) : (stallOn e s).blOut = s.blOut := rfl
@[simp] theorem stallOn_offered (e : Event) (s : State) : (stallOn e s).offered = some e := rfl
@[simp] theorem stallOn_stream (e : Event) (s : State) : (stallOn e s).stream = s.stream := rfl
@[simp] theorem stallOn_answers (e : Event) (s : State) : (stallOn e s).answers = s.answers := rfl
@[simp] theorem stallOn_resetRequest (e : Event) (s : State) : (stallOn e s).resetRequest = s.resetRequest := rfl
@[simp] theorem stallOn_trace (e : Event) (s : State) : (stallOn e s).trace = s.trace := rfl
@[simp] theorem stallOn_codes (e : Event) (s : State) : (stallOn e s).codes = s.codes := rfl
@[simp] theorem stallOn_wire (e : Event) (s : State) : (stallOn e s).wire = s.wire ++ [.cut] := rfl
@[simp] theorem stallOn_panel (e : Event) (s : State) : (stallOn e s).panel = s.panel := rfl
@[simp] theorem stallOn_params (e : Event) (s : State) : (stallOn e s).params = s.params := rfl

/-! ### A failed event -/

@[simp] theorem failTransport_pc (e : Event) (s : State) : (failTransport e s).pc = s.pc := rfl
@[simp] theorem failTransport_mode (e : Event) (s : State) : (failTransport e s).mode = s.mode := rfl
@[simp] theorem failTransport_ox (e : Event) (s : State) : (failTransport e s).ox = s.ox := rfl
@[simp] theorem failTransport_fw (e : Event) (s : State) : (failTransport e s).fw = s.fw := rfl
@[simp] theorem failTransport_oy (e : Event) (s : State) : (failTransport e s).oy = s.oy := rfl
@[simp] theorem failTransport_fh (e : Event) (s : State) : (failTransport e s).fh = s.fh := rfl
@[simp] theorem failTransport_winXs (e : Event) (s : State) : (failTransport e s).winXs = s.winXs := rfl
@[simp] theorem failTransport_winYs (e : Event) (s : State) : (failTransport e s).winYs = s.winYs := rfl
@[simp] theorem failTransport_winXe (e : Event) (s : State) : (failTransport e s).winXe = s.winXe := rfl
@[simp] theorem failTransport_winYe (e : Event) (s : State) : (failTransport e s).winYe = s.winYe := rfl
@[simp] theorem failTransport_status (e : Event) (s : State) : (failTransport e s).status = putBit 2 true (putLast 3#3 s.status) := rfl
@[simp] theorem failTransport_tbuf (e : Event) (s : State) : (failTransport e s).tbuf = s.tbuf := rfl
@[simp] theorem failTransport_rstOut (e : Event) (s : State) : (failTransport e s).rstOut = s.rstOut := rfl
@[simp] theorem failTransport_blOut (e : Event) (s : State) : (failTransport e s).blOut = s.blOut := rfl
@[simp] theorem failTransport_offered (e : Event) (s : State) : (failTransport e s).offered = s.offered := rfl
@[simp] theorem failTransport_stream (e : Event) (s : State) : (failTransport e s).stream = s.stream := rfl
@[simp] theorem failTransport_answers (e : Event) (s : State) : (failTransport e s).answers = s.answers := rfl
@[simp] theorem failTransport_resetRequest (e : Event) (s : State) : (failTransport e s).resetRequest = s.resetRequest := rfl
@[simp] theorem failTransport_trace (e : Event) (s : State) : (failTransport e s).trace = s.trace ++ [{ event := e, failed := true }] := rfl
@[simp] theorem failTransport_codes (e : Event) (s : State) : (failTransport e s).codes = s.codes ++ [.transportFail] := rfl
@[simp] theorem failTransport_wire (e : Event) (s : State) : (failTransport e s).wire = s.wire ++ [.cut] := rfl
@[simp] theorem failTransport_panel (e : Event) (s : State) : (failTransport e s).panel = s.panel := rfl
@[simp] theorem failTransport_params (e : Event) (s : State) : (failTransport e s).params = s.params := rfl

/-! ### A step of the panel -/

@[simp] theorem onPanel_pc (g : Panel → Panel) (s : State) : (onPanel g s).pc = s.pc := rfl
@[simp] theorem onPanel_mode (g : Panel → Panel) (s : State) : (onPanel g s).mode = s.mode := rfl
@[simp] theorem onPanel_ox (g : Panel → Panel) (s : State) : (onPanel g s).ox = s.ox := rfl
@[simp] theorem onPanel_fw (g : Panel → Panel) (s : State) : (onPanel g s).fw = s.fw := rfl
@[simp] theorem onPanel_oy (g : Panel → Panel) (s : State) : (onPanel g s).oy = s.oy := rfl
@[simp] theorem onPanel_fh (g : Panel → Panel) (s : State) : (onPanel g s).fh = s.fh := rfl
@[simp] theorem onPanel_winXs (g : Panel → Panel) (s : State) : (onPanel g s).winXs = s.winXs := rfl
@[simp] theorem onPanel_winYs (g : Panel → Panel) (s : State) : (onPanel g s).winYs = s.winYs := rfl
@[simp] theorem onPanel_winXe (g : Panel → Panel) (s : State) : (onPanel g s).winXe = s.winXe := rfl
@[simp] theorem onPanel_winYe (g : Panel → Panel) (s : State) : (onPanel g s).winYe = s.winYe := rfl
@[simp] theorem onPanel_status (g : Panel → Panel) (s : State) : (onPanel g s).status = s.status := rfl
@[simp] theorem onPanel_tbuf (g : Panel → Panel) (s : State) : (onPanel g s).tbuf = s.tbuf := rfl
@[simp] theorem onPanel_rstOut (g : Panel → Panel) (s : State) : (onPanel g s).rstOut = s.rstOut := rfl
@[simp] theorem onPanel_blOut (g : Panel → Panel) (s : State) : (onPanel g s).blOut = s.blOut := rfl
@[simp] theorem onPanel_offered (g : Panel → Panel) (s : State) : (onPanel g s).offered = s.offered := rfl
@[simp] theorem onPanel_stream (g : Panel → Panel) (s : State) : (onPanel g s).stream = s.stream := rfl
@[simp] theorem onPanel_answers (g : Panel → Panel) (s : State) : (onPanel g s).answers = s.answers := rfl
@[simp] theorem onPanel_resetRequest (g : Panel → Panel) (s : State) : (onPanel g s).resetRequest = s.resetRequest := rfl
@[simp] theorem onPanel_trace (g : Panel → Panel) (s : State) : (onPanel g s).trace = s.trace := rfl
@[simp] theorem onPanel_codes (g : Panel → Panel) (s : State) : (onPanel g s).codes = s.codes := rfl
@[simp] theorem onPanel_wire (g : Panel → Panel) (s : State) : (onPanel g s).wire = s.wire := rfl
@[simp] theorem onPanel_panel (g : Panel → Panel) (s : State) : (onPanel g s).panel = g s.panel := rfl
@[simp] theorem onPanel_params (g : Panel → Panel) (s : State) : (onPanel g s).params = s.params := rfl

/-! ### The end of an operation -/

/-- What the end of an operation other than a transport failure leaves in STATUS (10_state R26). -/
theorem endOperation_of_ne (code : StatusCode) (size : Nat) (s : State) (h : code ≠ .transportFail) :
    endOperation code size s =
      { s with pc := s.pc + size, status := putBit 0 false (putLast code.bits s.status),
               codes := s.codes ++ [code] } := by
  cases code <;> first | rfl | exact absurd rfl h

/-- A transport failure ends an operation with FATAL set, BUSY and `pc` as they were (60_exceptions R224). -/
theorem endOperation_transportFail (size : Nat) (s : State) :
    endOperation .transportFail size s =
      { s with status := putBit 2 true (putLast 3#3 s.status), codes := s.codes ++ [.transportFail] } := rfl

/-! ### The reset input -/

@[simp] theorem blockReset_pc (s : State) : (blockReset s).pc = 0 := rfl
@[simp] theorem blockReset_mode (s : State) : (blockReset s).mode = 0#3 := rfl
@[simp] theorem blockReset_ox (s : State) : (blockReset s).ox = Config.landOx := rfl
@[simp] theorem blockReset_fw (s : State) : (blockReset s).fw = Config.landW := rfl
@[simp] theorem blockReset_oy (s : State) : (blockReset s).oy = Config.landOy := rfl
@[simp] theorem blockReset_fh (s : State) : (blockReset s).fh = Config.landH := rfl
@[simp] theorem blockReset_winXs (s : State) : (blockReset s).winXs = 0#16 := rfl
@[simp] theorem blockReset_winYs (s : State) : (blockReset s).winYs = 0#16 := rfl
@[simp] theorem blockReset_winXe (s : State) : (blockReset s).winXe = 0#16 := rfl
@[simp] theorem blockReset_winYe (s : State) : (blockReset s).winYe = 0#16 := rfl
@[simp] theorem blockReset_status (s : State) : (blockReset s).status = 0#8 := rfl
@[simp] theorem blockReset_tbuf (s : State) : (blockReset s).tbuf = Vector.replicate 256 0#8 := rfl
@[simp] theorem blockReset_rstOut (s : State) : (blockReset s).rstOut = false := rfl
@[simp] theorem blockReset_blOut (s : State) : (blockReset s).blOut = false := rfl
@[simp] theorem blockReset_offered (s : State) : (blockReset s).offered = none := rfl
@[simp] theorem blockReset_stream (s : State) : (blockReset s).stream = s.stream := rfl
@[simp] theorem blockReset_answers (s : State) : (blockReset s).answers = s.answers := rfl
@[simp] theorem blockReset_resetRequest (s : State) : (blockReset s).resetRequest = false := rfl
@[simp] theorem blockReset_trace (s : State) : (blockReset s).trace = s.trace := rfl
@[simp] theorem blockReset_codes (s : State) : (blockReset s).codes = s.codes := rfl
@[simp] theorem blockReset_wire (s : State) : (blockReset s).wire = s.wire := rfl
@[simp] theorem blockReset_panel (s : State) : (blockReset s).panel = s.panel := rfl
@[simp] theorem blockReset_params (s : State) : (blockReset s).params = s.params := rfl

end Sys2Proof.Machine
end

