-- ==== Sys2Proof/Laws/Claims.lean ====
section
/-! SUPPORT. One lemma per field for each state transformation that claims are stated with (Safety.lean), each
true by rfl. -/

namespace Sys2Proof.Machine

/-! ### Events accepted -/

@[simp] theorem emitted_pc (es : List Event) (s : State) : (s.emitted es).pc = s.pc := rfl
@[simp] theorem emitted_mode (es : List Event) (s : State) : (s.emitted es).mode = s.mode := rfl
@[simp] theorem emitted_ox (es : List Event) (s : State) : (s.emitted es).ox = s.ox := rfl
@[simp] theorem emitted_fw (es : List Event) (s : State) : (s.emitted es).fw = s.fw := rfl
@[simp] theorem emitted_oy (es : List Event) (s : State) : (s.emitted es).oy = s.oy := rfl
@[simp] theorem emitted_fh (es : List Event) (s : State) : (s.emitted es).fh = s.fh := rfl
@[simp] theorem emitted_winXs (es : List Event) (s : State) : (s.emitted es).winXs = s.winXs := rfl
@[simp] theorem emitted_winYs (es : List Event) (s : State) : (s.emitted es).winYs = s.winYs := rfl
@[simp] theorem emitted_winXe (es : List Event) (s : State) : (s.emitted es).winXe = s.winXe := rfl
@[simp] theorem emitted_winYe (es : List Event) (s : State) : (s.emitted es).winYe = s.winYe := rfl
@[simp] theorem emitted_status (es : List Event) (s : State) : (s.emitted es).status = s.status := rfl
@[simp] theorem emitted_tbuf (es : List Event) (s : State) : (s.emitted es).tbuf = s.tbuf := rfl
@[simp] theorem emitted_rstOut (es : List Event) (s : State) : (s.emitted es).rstOut = s.rstOut := rfl
@[simp] theorem emitted_blOut (es : List Event) (s : State) : (s.emitted es).blOut = s.blOut := rfl
@[simp] theorem emitted_offered (es : List Event) (s : State) : (s.emitted es).offered = s.offered := rfl
@[simp] theorem emitted_stream (es : List Event) (s : State) : (s.emitted es).stream = s.stream := rfl
@[simp] theorem emitted_answers (es : List Event) (s : State) : (s.emitted es).answers = s.answers.drop es.length := rfl
@[simp] theorem emitted_resetRequest (es : List Event) (s : State) : (s.emitted es).resetRequest = s.resetRequest := rfl
@[simp] theorem emitted_trace (es : List Event) (s : State) : (s.emitted es).trace = s.trace ++ accepted es := rfl
@[simp] theorem emitted_codes (es : List Event) (s : State) : (s.emitted es).codes = s.codes := rfl
@[simp] theorem emitted_wire (es : List Event) (s : State) : (s.emitted es).wire = s.wire ++ es.flatMap Event.onWire := rfl
@[simp] theorem emitted_panel (es : List Event) (s : State) : (s.emitted es).panel = s.panel := rfl
@[simp] theorem emitted_params (es : List Event) (s : State) : (s.emitted es).params = s.params := rfl

/-! ### An operation ended -/

@[simp] theorem ended_pc (c : StatusCode) (n : Nat) (s : State) : (s.ended c n).pc = s.pc + n := rfl
@[simp] theorem ended_mode (c : StatusCode) (n : Nat) (s : State) : (s.ended c n).mode = s.mode := rfl
@[simp] theorem ended_ox (c : StatusCode) (n : Nat) (s : State) : (s.ended c n).ox = s.ox := rfl
@[simp] theorem ended_fw (c : StatusCode) (n : Nat) (s : State) : (s.ended c n).fw = s.fw := rfl
@[simp] theorem ended_oy (c : StatusCode) (n : Nat) (s : State) : (s.ended c n).oy = s.oy := rfl
@[simp] theorem ended_fh (c : StatusCode) (n : Nat) (s : State) : (s.ended c n).fh = s.fh := rfl
@[simp] theorem ended_winXs (c : StatusCode) (n : Nat) (s : State) : (s.ended c n).winXs = s.winXs := rfl
@[simp] theorem ended_winYs (c : StatusCode) (n : Nat) (s : State) : (s.ended c n).winYs = s.winYs := rfl
@[simp] theorem ended_winXe (c : StatusCode) (n : Nat) (s : State) : (s.ended c n).winXe = s.winXe := rfl
@[simp] theorem ended_winYe (c : StatusCode) (n : Nat) (s : State) : (s.ended c n).winYe = s.winYe := rfl
@[simp] theorem ended_status (c : StatusCode) (n : Nat) (s : State) : (s.ended c n).status = endStatus c s.status := rfl
@[simp] theorem ended_tbuf (c : StatusCode) (n : Nat) (s : State) : (s.ended c n).tbuf = s.tbuf := rfl
@[simp] theorem ended_rstOut (c : StatusCode) (n : Nat) (s : State) : (s.ended c n).rstOut = s.rstOut := rfl
@[simp] theorem ended_blOut (c : StatusCode) (n : Nat) (s : State) : (s.ended c n).blOut = s.blOut := rfl
@[simp] theorem ended_offered (c : StatusCode) (n : Nat) (s : State) : (s.ended c n).offered = s.offered := rfl
@[simp] theorem ended_stream (c : StatusCode) (n : Nat) (s : State) : (s.ended c n).stream = s.stream := rfl
@[simp] theorem ended_answers (c : StatusCode) (n : Nat) (s : State) : (s.ended c n).answers = s.answers := rfl
@[simp] theorem ended_resetRequest (c : StatusCode) (n : Nat) (s : State) : (s.ended c n).resetRequest = s.resetRequest := rfl
@[simp] theorem ended_trace (c : StatusCode) (n : Nat) (s : State) : (s.ended c n).trace = s.trace := rfl
@[simp] theorem ended_codes (c : StatusCode) (n : Nat) (s : State) : (s.ended c n).codes = s.codes ++ [c] := rfl
@[simp] theorem ended_wire (c : StatusCode) (n : Nat) (s : State) : (s.ended c n).wire = s.wire := rfl
@[simp] theorem ended_panel (c : StatusCode) (n : Nat) (s : State) : (s.ended c n).panel = s.panel := rfl
@[simp] theorem ended_params (c : StatusCode) (n : Nat) (s : State) : (s.ended c n).params = s.params := rfl

/-! ### The window shadow -/

@[simp] theorem window_pc (x0 y0 x1 y1 : Int) (s : State) : (s.window x0 y0 x1 y1).pc = s.pc := rfl
@[simp] theorem window_mode (x0 y0 x1 y1 : Int) (s : State) : (s.window x0 y0 x1 y1).mode = s.mode := rfl
@[simp] theorem window_ox (x0 y0 x1 y1 : Int) (s : State) : (s.window x0 y0 x1 y1).ox = s.ox := rfl
@[simp] theorem window_fw (x0 y0 x1 y1 : Int) (s : State) : (s.window x0 y0 x1 y1).fw = s.fw := rfl
@[simp] theorem window_oy (x0 y0 x1 y1 : Int) (s : State) : (s.window x0 y0 x1 y1).oy = s.oy := rfl
@[simp] theorem window_fh (x0 y0 x1 y1 : Int) (s : State) : (s.window x0 y0 x1 y1).fh = s.fh := rfl
@[simp] theorem window_winXs (x0 y0 x1 y1 : Int) (s : State) : (s.window x0 y0 x1 y1).winXs = u16 x0 := rfl
@[simp] theorem window_winYs (x0 y0 x1 y1 : Int) (s : State) : (s.window x0 y0 x1 y1).winYs = u16 y0 := rfl
@[simp] theorem window_winXe (x0 y0 x1 y1 : Int) (s : State) : (s.window x0 y0 x1 y1).winXe = u16 x1 := rfl
@[simp] theorem window_winYe (x0 y0 x1 y1 : Int) (s : State) : (s.window x0 y0 x1 y1).winYe = u16 y1 := rfl
@[simp] theorem window_status (x0 y0 x1 y1 : Int) (s : State) : (s.window x0 y0 x1 y1).status = s.status := rfl
@[simp] theorem window_tbuf (x0 y0 x1 y1 : Int) (s : State) : (s.window x0 y0 x1 y1).tbuf = s.tbuf := rfl
@[simp] theorem window_rstOut (x0 y0 x1 y1 : Int) (s : State) : (s.window x0 y0 x1 y1).rstOut = s.rstOut := rfl
@[simp] theorem window_blOut (x0 y0 x1 y1 : Int) (s : State) : (s.window x0 y0 x1 y1).blOut = s.blOut := rfl
@[simp] theorem window_offered (x0 y0 x1 y1 : Int) (s : State) : (s.window x0 y0 x1 y1).offered = s.offered := rfl
@[simp] theorem window_stream (x0 y0 x1 y1 : Int) (s : State) : (s.window x0 y0 x1 y1).stream = s.stream := rfl
@[simp] theorem window_answers (x0 y0 x1 y1 : Int) (s : State) : (s.window x0 y0 x1 y1).answers = s.answers := rfl
@[simp] theorem window_resetRequest (x0 y0 x1 y1 : Int) (s : State) : (s.window x0 y0 x1 y1).resetRequest = s.resetRequest := rfl
@[simp] theorem window_trace (x0 y0 x1 y1 : Int) (s : State) : (s.window x0 y0 x1 y1).trace = s.trace := rfl
@[simp] theorem window_codes (x0 y0 x1 y1 : Int) (s : State) : (s.window x0 y0 x1 y1).codes = s.codes := rfl
@[simp] theorem window_wire (x0 y0 x1 y1 : Int) (s : State) : (s.window x0 y0 x1 y1).wire = s.wire := rfl
@[simp] theorem window_panel (x0 y0 x1 y1 : Int) (s : State) : (s.window x0 y0 x1 y1).panel = s.panel := rfl
@[simp] theorem window_params (x0 y0 x1 y1 : Int) (s : State) : (s.window x0 y0 x1 y1).params = s.params := rfl

/-! ### The mode and its frame -/

@[simp] theorem inMode_pc (m : BitVec 3) (s : State) : (s.inMode m).pc = s.pc := rfl
@[simp] theorem inMode_mode (m : BitVec 3) (s : State) : (s.inMode m).mode = m := rfl
@[simp] theorem inMode_ox (m : BitVec 3) (s : State) : (s.inMode m).ox = (frameOf m).ox := rfl
@[simp] theorem inMode_fw (m : BitVec 3) (s : State) : (s.inMode m).fw = (frameOf m).fw := rfl
@[simp] theorem inMode_oy (m : BitVec 3) (s : State) : (s.inMode m).oy = (frameOf m).oy := rfl
@[simp] theorem inMode_fh (m : BitVec 3) (s : State) : (s.inMode m).fh = (frameOf m).fh := rfl
@[simp] theorem inMode_winXs (m : BitVec 3) (s : State) : (s.inMode m).winXs = s.winXs := rfl
@[simp] theorem inMode_winYs (m : BitVec 3) (s : State) : (s.inMode m).winYs = s.winYs := rfl
@[simp] theorem inMode_winXe (m : BitVec 3) (s : State) : (s.inMode m).winXe = s.winXe := rfl
@[simp] theorem inMode_winYe (m : BitVec 3) (s : State) : (s.inMode m).winYe = s.winYe := rfl
@[simp] theorem inMode_status (m : BitVec 3) (s : State) : (s.inMode m).status = s.status := rfl
@[simp] theorem inMode_tbuf (m : BitVec 3) (s : State) : (s.inMode m).tbuf = s.tbuf := rfl
@[simp] theorem inMode_rstOut (m : BitVec 3) (s : State) : (s.inMode m).rstOut = s.rstOut := rfl
@[simp] theorem inMode_blOut (m : BitVec 3) (s : State) : (s.inMode m).blOut = s.blOut := rfl
@[simp] theorem inMode_offered (m : BitVec 3) (s : State) : (s.inMode m).offered = s.offered := rfl
@[simp] theorem inMode_stream (m : BitVec 3) (s : State) : (s.inMode m).stream = s.stream := rfl
@[simp] theorem inMode_answers (m : BitVec 3) (s : State) : (s.inMode m).answers = s.answers := rfl
@[simp] theorem inMode_resetRequest (m : BitVec 3) (s : State) : (s.inMode m).resetRequest = s.resetRequest := rfl
@[simp] theorem inMode_trace (m : BitVec 3) (s : State) : (s.inMode m).trace = s.trace := rfl
@[simp] theorem inMode_codes (m : BitVec 3) (s : State) : (s.inMode m).codes = s.codes := rfl
@[simp] theorem inMode_wire (m : BitVec 3) (s : State) : (s.inMode m).wire = s.wire := rfl
@[simp] theorem inMode_panel (m : BitVec 3) (s : State) : (s.inMode m).panel = s.panel := rfl
@[simp] theorem inMode_params (m : BitVec 3) (s : State) : (s.inMode m).params = s.params := rfl

/-! ### The panel caught up -/

@[simp] theorem settled_pc (s : State) : (s.settled).pc = s.pc := rfl
@[simp] theorem settled_mode (s : State) : (s.settled).mode = s.mode := rfl
@[simp] theorem settled_ox (s : State) : (s.settled).ox = s.ox := rfl
@[simp] theorem settled_fw (s : State) : (s.settled).fw = s.fw := rfl
@[simp] theorem settled_oy (s : State) : (s.settled).oy = s.oy := rfl
@[simp] theorem settled_fh (s : State) : (s.settled).fh = s.fh := rfl
@[simp] theorem settled_winXs (s : State) : (s.settled).winXs = s.winXs := rfl
@[simp] theorem settled_winYs (s : State) : (s.settled).winYs = s.winYs := rfl
@[simp] theorem settled_winXe (s : State) : (s.settled).winXe = s.winXe := rfl
@[simp] theorem settled_winYe (s : State) : (s.settled).winYe = s.winYe := rfl
@[simp] theorem settled_status (s : State) : (s.settled).status = s.status := rfl
@[simp] theorem settled_tbuf (s : State) : (s.settled).tbuf = s.tbuf := rfl
@[simp] theorem settled_rstOut (s : State) : (s.settled).rstOut = s.rstOut := rfl
@[simp] theorem settled_blOut (s : State) : (s.settled).blOut = s.blOut := rfl
@[simp] theorem settled_offered (s : State) : (s.settled).offered = s.offered := rfl
@[simp] theorem settled_stream (s : State) : (s.settled).stream = s.stream := rfl
@[simp] theorem settled_answers (s : State) : (s.settled).answers = s.answers := rfl
@[simp] theorem settled_resetRequest (s : State) : (s.settled).resetRequest = s.resetRequest := rfl
@[simp] theorem settled_trace (s : State) : (s.settled).trace = s.trace := rfl
@[simp] theorem settled_codes (s : State) : (s.settled).codes = s.codes := rfl
@[simp] theorem settled_wire (s : State) : (s.settled).wire = [] := rfl
@[simp] theorem settled_panel (s : State) : (s.settled).panel = s.panel.feed s.params s.wire := rfl
@[simp] theorem settled_params (s : State) : (s.settled).params = s.params := rfl

end Sys2Proof.Machine
end

