-- ==== Sys2Proof/Laws/Decode.lean ====
section
/-! SUPPORT. The laws of the descriptor fields: a field read back from its stream bytes, the fields read back from
a descriptor's bytes, the command bytes told apart, and what a wire command decodes to. -/

namespace Sys2Proof

@[simp] theorem le16_extract (v : Half) : le16 (v.extractLsb' 0 8) (v.extractLsb' 8 8) = v := by
  apply BitVec.eq_of_getLsbD_eq
  intro i hi
  simp only [le16, BitVec.getLsbD_append, BitVec.getLsbD_extractLsb']
  interval_cases i <;> rfl

@[simp] theorem le32_extract (v : Word32) :
    le32 (v.extractLsb' 0 8) (v.extractLsb' 8 8) (v.extractLsb' 16 8) (v.extractLsb' 24 8) = v := by
  apply BitVec.eq_of_getLsbD_eq
  intro i hi
  simp only [le32, BitVec.getLsbD_append, BitVec.getLsbD_extractLsb']
  interval_cases i <;> rfl

/-- The fields of a descriptor, read back from its bytes. -/
theorem Desc.parse_bytes (d : Desc) (rest : List Byte) : Desc.parse (d.bytes ++ rest) = some (d, rest) := by
  simp only [Desc.bytes, le16Bytes, le32Bytes, List.cons_append, List.nil_append, Desc.parse, le16_extract,
    le32_extract]

theorem decode_bytes (d : Desc) (rest : List Byte) : decode (d.bytes ++ rest) = decodeDesc d rest := by
  simp [decode, Desc.parse_bytes]

theorem le_beatBytes (n : Nat) : n ≤ beatBytes n := by unfold beatBytes; omega

theorem dvd_size (i : Instr) (h : i.format = .desc128) : 16 ∣ i.size := by
  cases i <;> simp_all [Instr.format, Instr.size, beatBytes]

/-- A descriptor of 16 bytes or more parses, whatever follows its first 16 bytes. -/
theorem Desc.parse_take (bs : List Byte) (h : 16 ≤ bs.length) :
    ∃ d, Desc.parse (bs.take 16) = some (d, []) ∧ Desc.parse bs = some (d, bs.drop 16) := by
  match bs, h with
  | _ :: _ :: _ :: _ :: _ :: _ :: _ :: _ :: _ :: _ :: _ :: _ :: _ :: _ :: _ :: _ :: _, _ => exact ⟨_, rfl, rfl⟩

/-! ### Commands told apart -/

/-- Two places of the list of commands hold different bytes. -/
theorem Params.Distinct.ne {cfg : Params} (h : cfg.Distinct) (i j : Nat) (a b : Byte)
    (ha : cfg.commands[i]? = some a) (hb : cfg.commands[j]? = some b) (hij : i ≠ j) : a ≠ b := by
  rintro rfl
  obtain ⟨hi, hai⟩ := List.getElem?_eq_some_iff.mp ha
  obtain ⟨hj, hbj⟩ := List.getElem?_eq_some_iff.mp hb
  exact hij ((List.Nodup.getElem_inj_iff h).mp (hai.trans hbj.symm))

section
variable {cfg : Params} (h : cfg.Distinct)
include h

theorem Params.Distinct.raset_ne_caset : cfg.cmdRaset ≠ cfg.cmdCaset := h.ne 8 7 _ _ rfl rfl (by decide)
theorem Params.Distinct.ramwr_ne_caset : cfg.cmdRamwr ≠ cfg.cmdCaset := h.ne 9 7 _ _ rfl rfl (by decide)
theorem Params.Distinct.ramwr_ne_raset : cfg.cmdRamwr ≠ cfg.cmdRaset := h.ne 9 8 _ _ rfl rfl (by decide)
theorem Params.Distinct.ramwr_ne_swreset : cfg.cmdRamwr ≠ cfg.cmdSwreset := h.ne 9 0 _ _ rfl rfl (by decide)
theorem Params.Distinct.caset_ne_swreset : cfg.cmdCaset ≠ cfg.cmdSwreset := h.ne 7 0 _ _ rfl rfl (by decide)
theorem Params.Distinct.raset_ne_swreset : cfg.cmdRaset ≠ cfg.cmdSwreset := h.ne 8 0 _ _ rfl rfl (by decide)
theorem Params.Distinct.caset_ne_ramwr : cfg.cmdCaset ≠ cfg.cmdRamwr := h.ramwr_ne_caset.symm
theorem Params.Distinct.raset_ne_ramwr : cfg.cmdRaset ≠ cfg.cmdRamwr := h.ramwr_ne_raset.symm

end

/-! ### What is decoded -/

/-- A wire command decodes only from its own byte. -/
theorem decodeWire_some (cfg : Params) (b : Byte) (i : Instr) (h : decodeWire cfg b = some i) :
    i.format = .wire8 ∧ encode cfg i = [b] := by
  unfold decodeWire at h
  iterate 14
    rcases ite_eq_iff.mp h with ⟨e, h⟩ | ⟨-, h⟩
    · cases h; subst e; exact ⟨rfl, rfl⟩
  cases h

/-- A byte that is no wire command is none of the fourteen. -/
theorem decodeWire_none (cfg : Params) (b : Byte) (h : decodeWire cfg b = none) : b ∉ cfg.commands := by
  unfold decodeWire at h
  iterate 14
    rcases ite_eq_iff.mp h with ⟨-, h⟩ | ⟨_, h⟩
    · cases h
  simp [Params.commands, *]

/-! The commands that take data, by their own bytes. -/

theorem Params.Distinct.decode_caset {cfg : Params} (h : cfg.Distinct) : decodeWire cfg cfg.cmdCaset = some .caset := by
  simp only [Params.Distinct, Params.commands, List.nodup_cons, List.mem_cons, not_or] at h
  simp only [decodeWire]
  simp_all [eq_comm]

theorem Params.Distinct.decode_raset {cfg : Params} (h : cfg.Distinct) : decodeWire cfg cfg.cmdRaset = some .raset := by
  simp only [Params.Distinct, Params.commands, List.nodup_cons, List.mem_cons, not_or] at h
  simp only [decodeWire]
  simp_all [eq_comm]

theorem Params.Distinct.decode_ramwr {cfg : Params} (h : cfg.Distinct) : decodeWire cfg cfg.cmdRamwr = some .ramwr := by
  simp [decodeWire, h.ramwr_ne_swreset]

/-- The descriptor decoder answers operations of the descriptor port only. -/
theorem decodeDesc_format (d : Desc) (rest : List Byte) (i : Instr) (r : List Byte)
    (h : decodeDesc d rest = .ok (i, r)) : i.format = .desc128 := by
  unfold decodeDesc at h
  repeat' split at h
  all_goals first
    | cases h; rfl
    | cases h

theorem decode_format (bs : List Byte) (i : Instr) (r : List Byte) (h : decode bs = .ok (i, r)) :
    i.format = .desc128 := by
  unfold decode at h
  split at h
  · cases h
  · exact decodeDesc_format _ _ _ _ h

end Sys2Proof
end

