-- ==== Sys2Proof/Laws/Status.lean ====
section
/-! SUPPORT. Reading back the fields of STATUS after a write: the field written has its new value, every other
bit is as it was (spec 10_state R26). -/

namespace Sys2Proof.Machine

theorem getLsbD_putBit (k j : Nat) (b : Bool) (v : Byte) (hk : k < 8) :
    (putBit k b v).getLsbD j = if j = k then b else v.getLsbD j := by
  by_cases hj : j < 8
  · interval_cases k <;> interval_cases j <;> cases b <;> simp [putBit]
  · have : j ≠ k := by omega
    simp [this, BitVec.getLsbD_of_ge _ _ (Nat.le_of_not_lt hj)]

theorem getLsbD_putLast (c : BitVec 3) (j : Nat) (v : Byte) :
    (putLast c v).getLsbD j = if 4 ≤ j ∧ j < 7 then c.getLsbD (j - 4) else v.getLsbD j := by
  by_cases hj : j < 8
  · interval_cases j <;> simp [putLast]
  · have : ¬ (4 ≤ j ∧ j < 7) := by omega
    simp [this, BitVec.getLsbD_of_ge _ _ (Nat.le_of_not_lt hj)]

/-- LAST after writing LAST. -/
@[simp] theorem extract_putLast (c : BitVec 3) (v : Byte) : (putLast c v).extractLsb' 4 3 = c := by
  apply BitVec.eq_of_getLsbD_eq
  intro i hi
  rw [BitVec.getLsbD_extractLsb', getLsbD_putLast]
  have : 4 ≤ 4 + i ∧ 4 + i < 7 := by omega
  simp [this, hi]

/-- LAST is not touched by writing one of the low four bits. -/
@[simp] theorem extract_putBit (k : Nat) (b : Bool) (v : Byte) (hk : k < 4) :
    (putBit k b v).extractLsb' 4 3 = v.extractLsb' 4 3 := by
  apply BitVec.eq_of_getLsbD_eq
  intro i hi
  rw [BitVec.getLsbD_extractLsb', BitVec.getLsbD_extractLsb', getLsbD_putBit _ _ _ _ (by omega)]
  have : 4 + i ≠ k := by omega
  simp [this]

/-- Ending an operation, BUSY written before or not, gives the same STATUS. -/
@[simp] theorem putBit_putLast_putBit (c : BitVec 3) (v : Byte) :
    putBit 0 false (putLast c (putBit 0 true v)) = putBit 0 false (putLast c v) := by
  apply BitVec.eq_of_getLsbD_eq
  intro i hi
  simp only [getLsbD_putBit, getLsbD_putLast, Nat.zero_lt_succ]
  split <;> simp_all

/-- Two bits of STATUS may be written in either order. -/
theorem putBit_comm (j k : Nat) (a b : Bool) (v : Byte) (hj : j < 8) (hk : k < 8)
    (hjk : j ≠ k) : putBit j a (putBit k b v) = putBit k b (putBit j a v) := by
  apply BitVec.eq_of_getLsbD_eq
  intro i _
  simp only [getLsbD_putBit _ _ _ _ hj, getLsbD_putBit _ _ _ _ hk]
  split <;> split <;> first | rfl | omega

end Sys2Proof.Machine
end

