-- ==== Sys2Proof/Laws/Script.lean ====
section
/-! SUPPORT. What the statements of a script can do, said once: under an environment that accepts everything
(`runScript_accepting`), under one that gives up at some event (`runScript_abort`), and what each of the
spec's sub-sequences writes and emits. -/

namespace Sys2Proof.Machine

/-! ### Accepted events -/

@[simp] theorem accepted_nil : accepted [] = [] := rfl

theorem accepted_inj (es fs : List Event) (h : accepted es = accepted fs) : es = fs := by
  simpa [accepted, Function.comp_def] using congrArg (List.map Emitted.event) h

@[simp] theorem accepted_append (es fs : List Event) : accepted (es ++ fs) = accepted es ++ accepted fs := by
  simp [accepted]

@[simp] theorem length_accepted (es : List Event) : (accepted es).length = es.length := by simp [accepted]

@[simp] theorem emitted_nil (s : State) : s.emitted [] = s := by simp [State.emitted]

@[simp] theorem emitted_emitted (es fs : List Event) (s : State) :
    (s.emitted es).emitted fs = s.emitted (es ++ fs) := by
  simp [State.emitted, List.drop_drop]

/-! ### Single statements -/

/-- The events a script offers when it starts in `s`, up to the first one the environment does not accept. -/
def scriptEvents : List Stmt → State → List Event
  | [], _ => []
  | m :: ms, s => (m.event s).toList ++ scriptEvents ms (m.write s)

/-- The register writes of a script. -/
def scriptWrites (ms : List Stmt) (s : State) : State := ms.foldl (fun t m => m.write t) s

@[simp] theorem scriptEvents_nil (s : State) : scriptEvents [] s = [] := rfl

@[simp] theorem scriptWrites_nil (s : State) : scriptWrites [] s = s := rfl

theorem scriptEvents_cons (m : Stmt) (ms : List Stmt) (s : State) :
    scriptEvents (m :: ms) s = (m.event s).toList ++ scriptEvents ms (m.write s) := rfl

theorem scriptWrites_cons (m : Stmt) (ms : List Stmt) (s : State) :
    scriptWrites (m :: ms) s = scriptWrites ms (m.write s) := rfl

@[simp] theorem scriptWrites_append (ms ns : List Stmt) (s : State) :
    scriptWrites (ms ++ ns) s = scriptWrites ns (scriptWrites ms s) := by simp [scriptWrites]

@[simp] theorem scriptEvents_append (ms ns : List Stmt) (s : State) :
    scriptEvents (ms ++ ns) s = scriptEvents ms s ++ scriptEvents ns (scriptWrites ms s) := by
  induction ms generalizing s with
  | nil => rfl
  | cons m ms ih => simp [scriptEvents_cons, scriptWrites_cons, ih]

/-- Writes and accepted events commute: no register write touches the trace, the wire or the answers. -/
theorem write_emitted (m : Stmt) (es : List Event) (s : State) :
    m.write (s.emitted es) = (m.write s).emitted es := by cases m <;> rfl

/-- What a statement emits depends on registers that no event changes. -/
theorem event_emitted (m : Stmt) (es : List Event) (s : State) : m.event (s.emitted es) = m.event s := by
  cases m <;> rfl

@[simp] theorem write_answers (m : Stmt) (s : State) : (m.write s).answers = s.answers := by cases m <;> rfl

@[simp] theorem write_trace (m : Stmt) (s : State) : (m.write s).trace = s.trace := by cases m <;> rfl

@[simp] theorem write_wire (m : Stmt) (s : State) : (m.write s).wire = s.wire := by cases m <;> rfl

@[simp] theorem write_pc (m : Stmt) (s : State) : (m.write s).pc = s.pc := by cases m <;> rfl

@[simp] theorem write_codes (m : Stmt) (s : State) : (m.write s).codes = s.codes := by cases m <;> rfl

@[simp] theorem write_offered (m : Stmt) (s : State) : (m.write s).offered = s.offered := by cases m <;> rfl

@[simp] theorem write_stream (m : Stmt) (s : State) : (m.write s).stream = s.stream := by cases m <;> rfl

@[simp] theorem write_panel (m : Stmt) (s : State) : (m.write s).panel = s.panel := by cases m <;> rfl

@[simp] theorem write_params (m : Stmt) (s : State) : (m.write s).params = s.params := by cases m <;> rfl

@[simp] theorem write_resetRequest (m : Stmt) (s : State) : (m.write s).resetRequest = s.resetRequest := by
  cases m <;> rfl

/-- A field of the state that no statement writes is as it was after a script. -/
theorem scriptWrites_keeps {α : Type} (f : State → α) (hf : ∀ m s, f (Stmt.write m s) = f s) (ms : List Stmt)
    (s : State) : f (scriptWrites ms s) = f s := by
  induction ms generalizing s with
  | nil => rfl
  | cons m ms ih => rw [scriptWrites_cons, ih, hf]

/-- A bit of STATUS other than INIT_DONE is written by no statement. -/
theorem write_status_bit (k : Nat) (hk : k ≠ 1) (m : Stmt) (s : State) :
    (m.write s).status.getLsbD k = s.status.getLsbD k := by
  cases m with
  | writeInitDone => simp [Stmt.write, getLsbD_putBit, hk]
  | _ => rfl

@[simp] theorem scriptWrites_answers (ms : List Stmt) (s : State) : (scriptWrites ms s).answers = s.answers :=
  scriptWrites_keeps (·.answers) write_answers ms s

@[simp] theorem scriptWrites_trace (ms : List Stmt) (s : State) : (scriptWrites ms s).trace = s.trace :=
  scriptWrites_keeps (·.trace) write_trace ms s

@[simp] theorem scriptWrites_wire (ms : List Stmt) (s : State) : (scriptWrites ms s).wire = s.wire :=
  scriptWrites_keeps (·.wire) write_wire ms s

@[simp] theorem scriptWrites_pc (ms : List Stmt) (s : State) : (scriptWrites ms s).pc = s.pc :=
  scriptWrites_keeps (·.pc) write_pc ms s

@[simp] theorem scriptWrites_codes (ms : List Stmt) (s : State) : (scriptWrites ms s).codes = s.codes :=
  scriptWrites_keeps (·.codes) write_codes ms s

@[simp] theorem scriptWrites_offered (ms : List Stmt) (s : State) : (scriptWrites ms s).offered = s.offered :=
  scriptWrites_keeps (·.offered) write_offered ms s

@[simp] theorem scriptWrites_stream (ms : List Stmt) (s : State) : (scriptWrites ms s).stream = s.stream :=
  scriptWrites_keeps (·.stream) write_stream ms s

@[simp] theorem scriptWrites_panel (ms : List Stmt) (s : State) : (scriptWrites ms s).panel = s.panel :=
  scriptWrites_keeps (·.panel) write_panel ms s

@[simp] theorem scriptWrites_params (ms : List Stmt) (s : State) : (scriptWrites ms s).params = s.params :=
  scriptWrites_keeps (·.params) write_params ms s

@[simp] theorem scriptWrites_resetRequest (ms : List Stmt) (s : State) : (scriptWrites ms s).resetRequest = s.resetRequest :=
  scriptWrites_keeps (·.resetRequest) write_resetRequest ms s

@[simp] theorem scriptWrites_fatal (ms : List Stmt) (s : State) : (scriptWrites ms s).fatal = s.fatal :=
  scriptWrites_keeps State.fatal (write_status_bit 2 (by decide)) ms s

@[simp] theorem scriptWrites_last (ms : List Stmt) (s : State) : (scriptWrites ms s).last = s.last :=
  scriptWrites_keeps State.last (fun m s => by cases m <;> first | rfl | simp [Stmt.write, State.last]) ms s

@[simp] theorem scriptWrites_emitted (ms : List Stmt) (es : List Event) (s : State) :
    scriptWrites ms (s.emitted es) = (scriptWrites ms s).emitted es := by
  induction ms generalizing s with
  | nil => rfl
  | cons m ms ih => rw [scriptWrites_cons, scriptWrites_cons, write_emitted, ih]

@[simp] theorem scriptEvents_emitted (ms : List Stmt) (es : List Event) (s : State) :
    scriptEvents ms (s.emitted es) = scriptEvents ms s := by
  induction ms generalizing s with
  | nil => rfl
  | cons m ms ih => rw [scriptEvents_cons, scriptEvents_cons, write_emitted, event_emitted, ih]

/-- No register write and no event depends on the answers to come. -/
theorem scriptWrites_withAnswers (ms : List Stmt) (s : State) (as : List Answer) :
    scriptWrites ms { s with answers := as } = { scriptWrites ms s with answers := as } := by
  induction ms generalizing s with
  | nil => rfl
  | cons m ms ih =>
    have h : m.write { s with answers := as } = { m.write s with answers := as } := by cases m <;> rfl
    rw [scriptWrites_cons, scriptWrites_cons, h, ih]

theorem scriptEvents_withAnswers (ms : List Stmt) (s : State) (as : List Answer) :
    scriptEvents ms { s with answers := as } = scriptEvents ms s := by
  induction ms generalizing s with
  | nil => rfl
  | cons m ms ih =>
    have h : m.write { s with answers := as } = { m.write s with answers := as } := by cases m <;> rfl
    have he : m.event { s with answers := as } = m.event s := by cases m <;> rfl
    rw [scriptEvents_cons, scriptEvents_cons, h, he, ih]

/-! ### One event -/

/-- What the machine is left in when the environment gives up on an event: stall, fail or reset. -/
def giveUp (a : Answer) (e : Event) (s : State) : State :=
  match a with
  | .accept => s
  | .stall => stallOn e s
  | .fail => failTransport e s
  | .reset => blockReset (cutShort s)

/-- Whether an answer ends the operation at this event: a DELAY cannot fail (40_transport R111). -/
def Answer.Ends (a : Answer) (e : Event) : Prop :=
  a = .stall ∨ (a = .fail ∧ e.canFail = true) ∨ a = .reset

/-- The environment's next answer, and the others. -/
theorem emit_cases (e : Event) (s : State) :
    emit e s = .go (s.emitted [e]) ∨
    ∃ a rest, s.answers = a :: rest ∧ a.Ends e ∧ emit e s = .abort (giveUp a e { s with answers := rest }) := by
  unfold emit
  cases hs : s.answers with
  | nil => left; simp [State.emitted, accepted, handOver, hs]
  | cons a rest =>
    cases a with
    | accept => left; simp [State.emitted, accepted, handOver, hs]
    | stall => right; exact ⟨_, _, rfl, .inl rfl, rfl⟩
    | reset => right; exact ⟨_, _, rfl, .inr (.inr rfl), rfl⟩
    | fail =>
      by_cases hc : e.canFail = true
      · right; exact ⟨_, _, rfl, .inr (.inl ⟨rfl, hc⟩), by simp [hc, giveUp]⟩
      · left; simp [State.emitted, accepted, handOver, hs, hc]

theorem emit_accept (e : Event) (s : State) (h : ∀ a ∈ s.answers.head?, a = Answer.accept) :
    emit e s = .go (s.emitted [e]) := by
  rcases emit_cases e s with h' | ⟨a, rest, hs, ha, -⟩
  · exact h'
  · have : a = .accept := h a (by simp [hs])
    subst this
    rcases ha with h | ⟨h, -⟩ | h <;> cases h

theorem emit_ends (a : Answer) (rest : List Answer) (e : Event) (s : State) (h : s.answers = a :: rest)
    (ha : a.Ends e) : emit e s = .abort (giveUp a e { s with answers := rest }) := by
  unfold emit
  rcases ha with rfl | ⟨rfl, hc⟩ | rfl <;> simp [giveUp, *]

/-! ### Whole scripts -/

theorem runScript_append (ms ns : List Stmt) (s : State) :
    runScript (ms ++ ns) s =
      match runScript ms s with
      | .go t => runScript ns t
      | .abort t => .abort t := by
  induction ms generalizing s with
  | nil => rfl
  | cons m ms ih =>
    simp only [List.cons_append, runScript]
    cases m.run s with
    | go t => exact ih t
    | abort t => rfl

/-- THE ACCEPTING RUN of a script: when the answers to its events are accept, all its writes happen and all
its events are emitted. -/
theorem runScript_accept (ms : List Stmt) (s : State)
    (h : ∀ a ∈ s.answers.take (scriptEvents ms s).length, a = Answer.accept) :
    runScript ms s = .go ((scriptWrites ms s).emitted (scriptEvents ms s)) := by
  induction ms generalizing s with
  | nil => simp [runScript]
  | cons m ms ih =>
    simp only [runScript, Stmt.run]
    rw [scriptEvents_cons] at h
    cases he : m.event s with
    | none =>
      simp only [he, Option.toList, List.nil_append] at h
      simp only [scriptEvents_cons, scriptWrites_cons, he, Option.toList, List.nil_append]
      exact ih _ (by simpa using h)
    | some e =>
      simp only [he, Option.toList, List.singleton_append, List.length_cons] at h
      have h1 : emit e (m.write s) = .go ((m.write s).emitted [e]) := by
        refine emit_accept e _ fun a ha => h a ?_
        rw [write_answers] at ha
        cases hs : s.answers with
        | nil => simp [hs] at ha
        | cons b bs => simp [hs] at ha; simp [ha]
      simp only [h1]
      rw [ih ((m.write s).emitted [e]), scriptWrites_emitted, scriptEvents_emitted, emitted_emitted]
      · simp [scriptEvents_cons, scriptWrites_cons, he]
      · intro a ha
        refine h a ?_
        rw [scriptEvents_emitted, emitted_answers, write_answers] at ha
        cases hs : s.answers with
        | nil => simp [hs] at ha
        | cons b bs => simp [hs] at ha ⊢; exact .inr ha

theorem runScript_accepting (ms : List Stmt) (s : State) (h : s.Accepting) :
    runScript ms s = .go ((scriptWrites ms s).emitted (scriptEvents ms s)) :=
  runScript_accept ms s fun a ha => h a (List.mem_of_mem_take ha)

/-- INVERSION of a script: it runs to its end with all its writes and events, or it is given up at the event
of one of its statements, with the writes up to that statement made and the events before it emitted. -/
theorem runScript_cases (ms : List Stmt) (s : State) :
    runScript ms s = .go ((scriptWrites ms s).emitted (scriptEvents ms s)) ∨
    ∃ ms₁ m ms₂ e a rest, ms = ms₁ ++ m :: ms₂ ∧ m.event (scriptWrites ms₁ s) = some e ∧ a.Ends e ∧
      s.answers.drop (scriptEvents ms₁ s).length = a :: rest ∧
      runScript ms s =
        .abort (giveUp a e { (scriptWrites (ms₁ ++ [m]) s).emitted (scriptEvents ms₁ s) with answers := rest }) := by
  induction ms generalizing s with
  | nil => left; simp [runScript]
  | cons m ms ih =>
    simp only [runScript, Stmt.run]
    cases he : m.event s with
    | none =>
      rcases ih (m.write s) with h | ⟨ms₁, n, ms₂, e, a, rest, rfl, hn, ha, hr, h⟩
      · left; simp [h, scriptEvents_cons, scriptWrites_cons, he]
      · right
        refine ⟨m :: ms₁, n, ms₂, e, a, rest, rfl, hn, ha, ?_, ?_⟩
        · simpa [scriptEvents_cons, he] using hr
        · simp [h, scriptEvents_cons, scriptWrites_cons, he]
    | some e =>
      rcases emit_cases e (m.write s) with h | ⟨a, rest, hs, ha, h⟩
      · simp only [h]
        rcases ih ((m.write s).emitted [e]) with h' | ⟨ms₁, n, ms₂, e', a, rest, rfl, hn, ha, hr, h'⟩
        · left; simp [h', scriptEvents_cons, scriptWrites_cons, he]
        · right
          refine ⟨m :: ms₁, n, ms₂, e', a, rest, rfl, ?_, ha, ?_, ?_⟩
          · rw [scriptWrites_emitted, event_emitted] at hn; exact hn
          · rw [scriptEvents_emitted, emitted_answers, write_answers, List.drop_drop] at hr
            rw [← hr, scriptEvents_cons, he]
            simp [Nat.add_comm]
          · simp [h', scriptEvents_cons, scriptWrites_cons, he]
      · right
        refine ⟨[], m, ms, e, a, rest, rfl, he, ha, by simpa using hs, ?_⟩
        simp [h, scriptWrites_cons]

/-- A script whose first events are accepted and whose next one is not. -/
theorem runScript_ends (ms₁ ms₂ : List Stmt) (m : Stmt) (s : State) (e : Event) (a : Answer) (rest : List Answer)
    (he : m.event (scriptWrites ms₁ s) = some e) (ha : a.Ends e)
    (hs : s.answers = List.replicate (scriptEvents ms₁ s).length Answer.accept ++ a :: rest) :
    runScript (ms₁ ++ m :: ms₂) s =
      .abort (giveUp a e { (scriptWrites (ms₁ ++ [m]) s).emitted (scriptEvents ms₁ s) with answers := rest }) := by
  rw [runScript_append, runScript_accept ms₁ s]
  · simp only [runScript, Stmt.run, event_emitted, he, write_emitted]
    rw [emit_ends a rest]
    · simp [scriptWrites_cons]
    · simp [State.emitted, hs]
    · exact ha
  · intro b hb
    rw [hs, List.take_left' (by simp)] at hb
    exact List.eq_of_mem_replicate hb

/-! ### Operations -/

/-- Accepting a descriptor first or last is the same: no statement reads BUSY. -/
theorem write_accept (m : Stmt) (s : State) : m.write (accept s) = accept (m.write s) := by
  cases m with
  | writeInitDone =>
    simp only [Stmt.write, accept, State.setInitDone, State.setBusy]
    rw [putBit_comm 1 0 _ _ _ (by decide) (by decide) (by decide)]
  | _ => rfl

theorem event_accept (m : Stmt) (s : State) : m.event (accept s) = m.event s := by cases m <;> rfl

@[simp] theorem scriptWrites_accept (ms : List Stmt) (s : State) :
    scriptWrites ms (accept s) = accept (scriptWrites ms s) := by
  induction ms generalizing s with
  | nil => rfl
  | cons m ms ih => rw [scriptWrites_cons, scriptWrites_cons, write_accept, ih]

@[simp] theorem scriptEvents_accept (ms : List Stmt) (s : State) :
    scriptEvents ms (accept s) = scriptEvents ms s := by
  induction ms generalizing s with
  | nil => rfl
  | cons m ms ih => rw [scriptEvents_cons, scriptEvents_cons, write_accept, event_accept, ih]

/-- Accepting a descriptor and ending the operation, in the terms of the claims. -/
theorem endOperation_accept (code : StatusCode) (size : Nat) (s : State) (h : code ≠ .transportFail) :
    endOperation code size (accept s) = s.ended code size := by
  cases code with
  | transportFail => exact absurd rfl h
  | _ => simp [endOperation, State.ended, endStatus, accept, State.setBusy, State.setLast]

theorem accept_emitted (es : List Event) (s : State) : (accept s).emitted es = accept (s.emitted es) := rfl

/-- THE ACCEPTING RUN of an operation: all its writes, all its events, status OK. -/
theorem runOperation_accepting (size : Nat) (ms : List Stmt) (s : State) (h : s.Accepting) :
    runOperation size ms s = ((scriptWrites ms s).emitted (scriptEvents ms s)).ended .ok size := by
  unfold runOperation
  rw [runScript_accepting ms (accept s) (by simpa [State.Accepting] using h)]
  simp only [scriptWrites_accept, scriptEvents_accept, accept_emitted]
  exact endOperation_accept .ok size _ (by simp)

/-- An operation stopped in the middle: `ms` has run, the statement `m` has made its writes and offered its
event, and these answers are still to come. -/
def stoppedAt (ms : List Stmt) (m : Stmt) (rest : List Answer) (s : State) : State :=
  { accept ((scriptWrites (ms ++ [m]) s).emitted (scriptEvents ms s)) with answers := rest }

section
variable (ms : List Stmt) (m : Stmt) (rest : List Answer) (s : State)

@[simp] theorem stoppedAt_pc : (stoppedAt ms m rest s).pc = s.pc := scriptWrites_pc _ _
@[simp] theorem stoppedAt_mode : (stoppedAt ms m rest s).mode = (scriptWrites (ms ++ [m]) s).mode := rfl
@[simp] theorem stoppedAt_ox : (stoppedAt ms m rest s).ox = (scriptWrites (ms ++ [m]) s).ox := rfl
@[simp] theorem stoppedAt_fw : (stoppedAt ms m rest s).fw = (scriptWrites (ms ++ [m]) s).fw := rfl
@[simp] theorem stoppedAt_oy : (stoppedAt ms m rest s).oy = (scriptWrites (ms ++ [m]) s).oy := rfl
@[simp] theorem stoppedAt_fh : (stoppedAt ms m rest s).fh = (scriptWrites (ms ++ [m]) s).fh := rfl
@[simp] theorem stoppedAt_winXs : (stoppedAt ms m rest s).winXs = (scriptWrites (ms ++ [m]) s).winXs := rfl
@[simp] theorem stoppedAt_winYs : (stoppedAt ms m rest s).winYs = (scriptWrites (ms ++ [m]) s).winYs := rfl
@[simp] theorem stoppedAt_winXe : (stoppedAt ms m rest s).winXe = (scriptWrites (ms ++ [m]) s).winXe := rfl
@[simp] theorem stoppedAt_winYe : (stoppedAt ms m rest s).winYe = (scriptWrites (ms ++ [m]) s).winYe := rfl
@[simp] theorem stoppedAt_status : (stoppedAt ms m rest s).status = putBit 0 true (scriptWrites (ms ++ [m]) s).status := rfl
@[simp] theorem stoppedAt_tbuf : (stoppedAt ms m rest s).tbuf = (scriptWrites (ms ++ [m]) s).tbuf := rfl
@[simp] theorem stoppedAt_rstOut : (stoppedAt ms m rest s).rstOut = (scriptWrites (ms ++ [m]) s).rstOut := rfl
@[simp] theorem stoppedAt_blOut : (stoppedAt ms m rest s).blOut = (scriptWrites (ms ++ [m]) s).blOut := rfl
@[simp] theorem stoppedAt_offered : (stoppedAt ms m rest s).offered = s.offered := scriptWrites_offered _ _
@[simp] theorem stoppedAt_stream : (stoppedAt ms m rest s).stream = s.stream := scriptWrites_stream _ _
@[simp] theorem stoppedAt_answers : (stoppedAt ms m rest s).answers = rest := rfl
@[simp] theorem stoppedAt_resetRequest : (stoppedAt ms m rest s).resetRequest = s.resetRequest := scriptWrites_resetRequest _ _
@[simp] theorem stoppedAt_trace : (stoppedAt ms m rest s).trace = s.trace ++ accepted (scriptEvents ms s) := by
  show (scriptWrites (ms ++ [m]) s).trace ++ _ = _
  rw [scriptWrites_trace]
@[simp] theorem stoppedAt_codes : (stoppedAt ms m rest s).codes = s.codes := scriptWrites_codes _ _
@[simp] theorem stoppedAt_wire : (stoppedAt ms m rest s).wire = s.wire ++ (scriptEvents ms s).flatMap Event.onWire := by
  show (scriptWrites (ms ++ [m]) s).wire ++ _ = _
  rw [scriptWrites_wire]
@[simp] theorem stoppedAt_panel : (stoppedAt ms m rest s).panel = s.panel := scriptWrites_panel _ _
@[simp] theorem stoppedAt_params : (stoppedAt ms m rest s).params = s.params := scriptWrites_params _ _

end

/-- INVERSION of an operation: it ends with status OK, or it is cut short at the event of one statement. -/
theorem runOperation_cases (size : Nat) (ms : List Stmt) (s : State) :
    runOperation size ms s = ((scriptWrites ms s).emitted (scriptEvents ms s)).ended .ok size ∨
    ∃ ms₁ m ms₂ e a rest, ms = ms₁ ++ m :: ms₂ ∧ m.event (scriptWrites ms₁ s) = some e ∧ a.Ends e ∧
      s.answers.drop (scriptEvents ms₁ s).length = a :: rest ∧
      runOperation size ms s = giveUp a e (stoppedAt ms₁ m rest s) := by
  unfold runOperation
  rcases runScript_cases ms (accept s) with h | ⟨ms₁, m, ms₂, e, a, rest, rfl, he, ha, hr, h⟩
  · left
    rw [h]
    simp only [scriptWrites_accept, scriptEvents_accept, accept_emitted]
    exact endOperation_accept .ok size _ (by simp)
  · right
    rw [scriptWrites_accept, event_accept] at he
    rw [scriptEvents_accept, accept_answers] at hr
    refine ⟨ms₁, m, ms₂, e, a, rest, rfl, he, ha, hr, ?_⟩
    rw [h]
    simp only [scriptWrites_accept, scriptEvents_accept, accept_emitted, stoppedAt]

/-- An operation whose first events are accepted and whose next one is not. -/
theorem runOperation_ends (size : Nat) (ms₁ ms₂ : List Stmt) (m : Stmt) (s : State) (e : Event) (a : Answer)
    (rest : List Answer) (he : m.event (scriptWrites ms₁ s) = some e) (ha : a.Ends e)
    (hs : s.answers = List.replicate (scriptEvents ms₁ s).length Answer.accept ++ a :: rest) :
    runOperation size (ms₁ ++ m :: ms₂) s = giveUp a e (stoppedAt ms₁ m rest s) := by
  unfold runOperation
  rw [runScript_ends ms₁ ms₂ m (accept s) e a rest (by rwa [scriptWrites_accept, event_accept]) ha
    (by rwa [scriptEvents_accept, accept_answers])]
  simp only [scriptWrites_accept, scriptEvents_accept, accept_emitted, stoppedAt]

/-- Where the event at a given place of a script comes from. -/
theorem scriptEvents_split (ms : List Stmt) (s : State) (k : Nat) (e : Event) (h : (scriptEvents ms s)[k]? = some e) :
    ∃ ms₁ m ms₂, ms = ms₁ ++ m :: ms₂ ∧ (scriptEvents ms₁ s).length = k ∧
      scriptEvents ms₁ s = (scriptEvents ms s).take k ∧ m.event (scriptWrites ms₁ s) = some e := by
  induction ms generalizing s k with
  | nil => simp at h
  | cons m ms ih =>
    rw [scriptEvents_cons] at h
    cases he : m.event s with
    | none =>
      obtain ⟨ms₁, n, ms₂, rfl, hk, ht, hn⟩ := ih (m.write s) k (by simpa [he] using h)
      exact ⟨m :: ms₁, n, ms₂, rfl, by simp [scriptEvents_cons, he, hk], by
        rw [scriptEvents_cons, scriptEvents_cons, he, ht]; rfl, hn⟩
    | some f =>
      cases k with
      | zero => exact ⟨[], m, ms, rfl, rfl, by simp, by simpa [he] using h⟩
      | succ k =>
        obtain ⟨ms₁, n, ms₂, rfl, hk, ht, hn⟩ := ih (m.write s) k (by simpa [he] using h)
        exact ⟨m :: ms₁, n, ms₂, rfl, by simp [scriptEvents_cons, he, hk], by
          rw [scriptEvents_cons, scriptEvents_cons, he, ht]; simp, hn⟩

end Sys2Proof.Machine
end

