-- ==== Sys2Proof/Laws/Sequences.lean ====
section
/-! SUPPORT. What each sub-sequence of the spec writes and emits: `set_win`, `pixel`, `set_frame`, `fill`, BLIT's and
INIT's pseudocode, and a plotted list of points. -/

namespace Sys2Proof.Machine

/-! ### Windows and pixels -/

@[simp] theorem setWin_writes (cfg : Params) (x0 y0 x1 y1 : Int) (s : State) :
    scriptWrites (setWin cfg x0 y0 x1 y1) s = s.window x0 y0 x1 y1 := rfl

@[simp] theorem setWin_events (cfg : Params) (x0 y0 x1 y1 : Int) (s : State) :
    scriptEvents (setWin cfg x0 y0 x1 y1) s = windowEvents cfg s.ox s.oy x0 y0 x1 y1 := rfl

@[simp] theorem region_writes (cfg : Params) (x y : Int) (w h : Nat) (s : State) :
    scriptWrites (region cfg x y w h) s = s.window x y (x + w - 1) (y + h - 1) := rfl

@[simp] theorem region_events (cfg : Params) (x y : Int) (w h : Nat) (s : State) :
    scriptEvents (region cfg x y w h) s = windowEvents cfg s.ox s.oy x y (x + w - 1) (y + h - 1) := rfl

@[simp] theorem cmd_writes (c : Byte) (s : State) : scriptWrites (cmd c) s = s := rfl

@[simp] theorem cmd_events (c : Byte) (s : State) : scriptEvents (cmd c) s = [.xfer false [c]] := rfl

@[simp] theorem data_writes (bs : List Byte) (s : State) : scriptWrites (data bs) s = s := by
  unfold data; split <;> rfl

@[simp] theorem data_events (bs : List Byte) (s : State) :
    scriptEvents (data bs) s = if bs = [] then [] else [.xfer true bs] := by
  unfold data; split <;> rfl

@[simp] theorem pixelAt_writes (cfg : Params) (x y : Int) (c : Half) (s : State) :
    scriptWrites (pixelAt cfg x y c) s = s.window x y x y := rfl

@[simp] theorem pixelAt_events (cfg : Params) (x y : Int) (c : Half) (s : State) :
    scriptEvents (pixelAt cfg x y c) s = pixelEvents cfg s.ox s.oy x y c := rfl

@[simp] theorem window_window (a b c d a' b' c' d' : Int) (s : State) :
    (s.window a b c d).window a' b' c' d' = s.window a' b' c' d' := rfl

theorem plotted_cons (p : Int × Int) (ps : List (Int × Int)) (s : State) :
    s.plotted (p :: ps) = (s.window p.1 p.2 p.1 p.2).plotted ps := by
  cases ps with
  | nil => rfl
  | cons q qs =>
    simp only [State.plotted, List.getLast?_cons_cons]
    cases h : (q :: qs).getLast? with
    | none => simp at h
    | some r => rfl

@[simp] theorem plot_writes (cfg : Params) (ps : List (Int × Int)) (c : Half) (s : State) :
    scriptWrites (plot cfg ps c) s = s.plotted ps := by
  induction ps generalizing s with
  | nil => rfl
  | cons p ps ih => simp only [plot, List.flatMap_cons, scriptWrites_append, pixelAt_writes] at ih ⊢
                    rw [ih, plotted_cons]

@[simp] theorem plot_events (cfg : Params) (ps : List (Int × Int)) (c : Half) (s : State) :
    scriptEvents (plot cfg ps c) s = plotEvents cfg s.ox s.oy ps c := by
  induction ps generalizing s with
  | nil => rfl
  | cons p ps ih =>
    simp only [plot, plotEvents, List.flatMap_cons, scriptEvents_append, pixelAt_events, pixelAt_writes] at ih ⊢
    rw [ih]; rfl

/-! ### The Transfer Buffer -/

theorem toList_alternating (n : Nat) (a b : Byte) :
    List.ofFn (fun i : Fin (2 * n) => if i.val % 2 = 0 then a else b) = rep [a, b] n := by
  induction n with
  | zero => rfl
  | succ n ih =>
    have h : 2 * (n + 1) = (2 * n + 1) + 1 := by omega
    rw [List.ofFn_congr h, List.ofFn_succ, List.ofFn_succ]
    simp only [rep, List.replicate_succ, List.flatten_cons, List.cons_append, List.nil_append] at ih ⊢
    rw [← ih]
    have hmod (i : Nat) : (i + 1 + 1) % 2 = i % 2 := by omega
    simp [hmod]

/-- All of TBUF after a refill: the colour's two wire bytes, 128 times (42_pixel_region R155). -/
theorem toList_tbufOf (c : Half) : (tbufOf c).toList = rep (be16 c) 128 := by
  have h := toList_alternating 128 (hi8 c) (lo8 c)
  unfold tbufOf be16
  rw [Vector.toList_ofFn]
  exact h

theorem length_rep (l : List Byte) (n : Nat) : (rep l n).length = n * l.length := by simp [rep]

theorem rep_add (l : List Byte) (m n : Nat) : rep l (m + n) = rep l m ++ rep l n := by
  rw [rep, List.replicate_add, List.flatten_append]; rfl

/-- A prefix of the refilled buffer of an even number of bytes is whole colours. -/
theorem take_tbufOf (c : Half) (k : Nat) (h : k ≤ 128) : (tbufOf c).toList.take (2 * k) = rep (be16 c) k := by
  obtain ⟨j, hj⟩ := Nat.exists_eq_add_of_le h
  rw [toList_tbufOf, hj, rep_add, List.take_left' (by simp [length_rep, be16, Nat.mul_comm])]

/-! ### Fills -/

/-- The chunks in numbers, for omega. -/
theorem chunkEvents_eq (n : Nat) (c : Half) : chunkEvents n c =
    List.replicate (n / 256) (.xfer true (rep (be16 c) 128))
      ++ if n % 256 = 0 then [] else [.xfer true (rep (be16 c) (n % 256 / 2))] := rfl

@[simp] theorem chunks_writes (n : Nat) (s : State) : scriptWrites (chunks n) s = s := by
  have h (k : Nat) : scriptWrites (List.replicate k (.tbufChunk Config.tbufSize)) s = s := by
    induction k with
    | zero => rfl
    | succ k ih => rw [List.replicate_succ, scriptWrites_cons]; exact ih
  unfold chunks
  rw [scriptWrites_append, h]
  split <;> rfl

theorem replicate_chunk_events (k : Nat) (s : State) :
    scriptEvents (List.replicate k (.tbufChunk Config.tbufSize)) s =
      List.replicate k (.xfer true (s.tbuf.toList.take 256)) := by
  induction k with
  | zero => rfl
  | succ k ih => rw [List.replicate_succ, scriptEvents_cons, List.replicate_succ, ← ih]; rfl

/-- The data transfers of a fill whose buffer holds the colour. -/
theorem chunks_events (n : Nat) (c : Half) (s : State) (hn : n % 2 = 0) (hs : s.tbuf = tbufOf c) :
    scriptEvents (chunks n) s = chunkEvents n c := by
  have hw : scriptWrites (List.replicate (n / Config.tbufSize) (.tbufChunk Config.tbufSize)) s = s := by
    generalize n / Config.tbufSize = k
    induction k with
    | zero => rfl
    | succ k ih => rw [List.replicate_succ, scriptWrites_cons]; exact ih
  have h256 : (tbufOf c).toList.take 256 = rep (be16 c) 128 := take_tbufOf c 128 (by omega)
  have hr : (tbufOf c).toList.take (n % 256) = rep (be16 c) (n % 256 / 2) := by
    rw [← take_tbufOf c _ (by omega)]; congr 1; omega
  rw [chunkEvents_eq]
  unfold chunks
  rw [scriptEvents_append, replicate_chunk_events, hw, hs, h256]
  by_cases h0 : n % 256 = 0
  · simp [h0, Config.tbufSize]
  · have h1 : n % Config.tbufSize > 0 := Nat.pos_of_ne_zero h0
    rw [if_pos h1, if_neg h0, scriptEvents_cons]
    simp only [Stmt.event, hs, Option.toList, scriptEvents_nil, List.append_nil]
    rw [← hr]
    rfl

@[simp] theorem fill_writes (cfg : Params) (x y : Int) (w h : Nat) (c : Half) (s : State) :
    scriptWrites (fill cfg x y w h c) s =
      { s.window x y (x + w - 1) (y + h - 1) with tbuf := tbufOf c } := by
  unfold fill
  rw [scriptWrites_cons]
  simp only [scriptWrites_append, region_writes, cmd_writes, chunks_writes]
  rfl

@[simp] theorem fill_events (cfg : Params) (x y : Int) (w h : Nat) (c : Half) (s : State) :
    scriptEvents (fill cfg x y w h c) s = fillEvents cfg s.ox s.oy x y w h c := by
  unfold fill fillEvents
  rw [scriptEvents_cons]
  simp only [scriptEvents_append, region_events, region_writes, cmd_events, cmd_writes, scriptWrites_append]
  rw [chunks_events (regionBytes w h) c _ (by simp [regionBytes, Config.bytesPerPixel]) rfl]
  rfl

/-- A colour repeated, as the bytes of that many pixels. -/
theorem rep_be16 (c : Half) (n : Nat) : rep (be16 c) n = (List.replicate n c).flatMap be16 := by
  simp [rep, List.flatMap_replicate]

/-- What the data transfers of a fill of `n` pixels put on the wire: chunking is invisible (20_memory R74). -/
theorem chunkEvents_onWire (n : Nat) (c : Half) :
    (chunkEvents (n * 2) c).flatMap Event.onWire = (rep (be16 c) n).map (WireItem.byte true) := by
  have h1 (k : Nat) : (List.replicate k (Event.xfer true (rep (be16 c) 128))).flatMap Event.onWire =
      (rep (be16 c) (k * 128)).map (WireItem.byte true) := by
    induction k with
    | zero => rfl
    | succ k ih =>
      rw [List.replicate_succ, List.flatMap_cons, ih, Nat.succ_mul, Nat.add_comm, rep_add, List.map_append]
      rfl
  have h2 : (if n * 2 % 256 = 0 then [] else [Event.xfer true (rep (be16 c) (n * 2 % 256 / 2))]).flatMap
      Event.onWire = (rep (be16 c) (n * 2 % 256 / 2)).map (WireItem.byte true) := by
    split
    · rename_i h; rw [h]; rfl
    · simp [Event.onWire]
  rw [chunkEvents_eq]
  rw [List.flatMap_append, h1, h2, ← List.map_append, ← rep_add]
  congr 2
  omega

/-! ### Orientation and bring-up -/

@[simp] theorem setFrame_writes (cfg : Params) (m : BitVec 3) (s : State) : scriptWrites (setFrame cfg m) s = s.inMode m := rfl

@[simp] theorem setFrame_events (cfg : Params) (m : BitVec 3) (s : State) :
    scriptEvents (setFrame cfg m) s = orientationEvents cfg m := rfl

@[simp] theorem hwReset_writes (s : State) : scriptWrites hwReset s = { s with rstOut := false } := rfl

@[simp] theorem hwReset_events (s : State) :
    scriptEvents hwReset s = [.rst false, .delay Config.tRst, .rst true, .delay Config.tRst, .rst false, .delay Config.tRst] := rfl

/-- The registers INIT writes in mode `m` (41_panel_control R140). -/
def broughtUp (m : BitVec 3) (s : State) : State :=
  (({ s.inMode m with rstOut := false, tbuf := tbufOf 0#16 } : State).window 0 0
    ((frameOf m).fw.toNat - 1) ((frameOf m).fh.toNat - 1)).setInitDone true

theorem initScript_writes (cfg : Params) (m : BitVec 3) (s : State) : scriptWrites (initScript cfg m) s = broughtUp m s := by
  unfold initScript broughtUp
  simp only [scriptWrites_append, hwReset_writes, cmd_writes, setFrame_writes, fill_writes]
  simp [scriptWrites, Stmt.write, cmdData, cmd, data, Config.black, zext, State.window, State.inMode, State.setInitDone]

theorem initScript_events (cfg : Params) (m : BitVec 3) (s : State) : scriptEvents (initScript cfg m) s = initEvents cfg m := by
  unfold initScript initEvents
  simp only [scriptEvents_append, scriptWrites_append, hwReset_writes, hwReset_events, cmd_writes, cmd_events,
    setFrame_writes, setFrame_events, fill_events, fill_writes]
  simp [scriptWrites, scriptEvents, Stmt.write, Stmt.event, cmdData, cmd, data, Config.tSwreset, Config.tSlpout,
    Config.black, zext, State.inMode]

end Sys2Proof.Machine
end

