-- ==== Sys2Proof/Laws/Exec.lean ====
section
/-! SUPPORT. What a step can do, said once: an operation runs its pseudocode or is rejected before any event
(`exec_desc`), a wire command is the panel's alone (`receive_eq`), and a step is one of five things
(`step_cases`). -/

namespace Sys2Proof.Machine

/-- The pseudocode an operation runs in a state; none when it is rejected before its first event, and for the
wire commands, which have none. -/
def script (i : Instr) (s : State) : Option (List Stmt) :=
  match i with
  | .init mode => (modeOperand mode).map (initScript s.params)
  | .setMode mode => (modeOperand mode).map (setFrame s.params)
  | .setWindow x0 y0 x1 y1 => some (setWin s.params (s16 x0) (s16 y0) (s16 x1) (s16 y1))
  | .blit x y w h len payload =>
    if len.toNat ≠ regionBytes (zext w) (zext h) then none
    else some (blitScript s.params (s16 x) (s16 y) (zext w) (zext h) payload)
  | .fillRect x y w h color => some (fill s.params (s16 x) (s16 y) (zext w) (zext h) color)
  | .pixel x y color => some (pixelAt s.params (s16 x) (s16 y) color)
  | .clear color => some (fill s.params 0 0 (zext s.fw) (zext s.fh) color)
  | .line x0 y0 x1 y1 color => some (plot s.params (linePoints (s16 x0) (s16 y0) (s16 x1) (s16 y1)) color)
  | .circle xc yc r color => some (plot s.params (circlePoints (s16 xc) (s16 yc) (zext r)) color)
  | .backlight on => some [.bl on]
  | .swreset | .slpout | .noron | .invoff | .invon | .dispoff | .dispon | .caset | .raset | .ramwr
  | .vscrdef | .madctl | .vscrsadd | .colmod => none

/-- What a rejected operation leaves: BLIT its status, INIT and SET_MODE the diagnostic as well. -/
def rejected (i : Instr) (s : State) : State :=
  match i with
  | .blit _ _ _ _ _ _ => s.ended .bufMismatch i.size
  | _ => (s.setDiagMode true).ended .invalidMode 16

theorem rejectMode_eq (s : State) : rejectMode s = (s.setDiagMode true).ended .invalidMode 16 := by
  rw [← endOperation_accept _ _ _ (by simp)]
  simp only [rejectMode, accept, State.setDiagMode, State.setBusy]
  rw [putBit_comm 3 0 _ _ _ (by decide) (by decide) (by decide)]

/-- An operation runs its pseudocode, or is rejected: no operation ends in a fault or a refusal. -/
theorem exec_desc (i : Instr) (s : State) (h : i.format = .desc128) :
    exec i s = .next (match script i s with
      | some ms => runOperation i.size ms s
      | none => rejected i s) := by
  cases i with
  | init mode =>
    simp only [exec, execInit, script, rejected, rejectMode_eq]
    cases modeOperand mode <;> rfl
  | setMode mode =>
    simp only [exec, execSetMode, script, rejected, rejectMode_eq]
    cases modeOperand mode <;> rfl
  | blit x y w h len payload =>
    simp only [exec, execBlit, script, rejected, Instr.size]
    split
    · rw [endOperation_accept _ _ _ (by simp)]
    · rfl
  | _ => first | rfl | simp [Instr.format] at h

/-- The pseudocode of every operation depends on the parameters and on FW and FH alone (CLEAR reads these two). -/
theorem script_congr (i : Instr) (s t : State) (hw : s.fw = t.fw) (hh : s.fh = t.fh) (hp : s.params = t.params) :
    script i s = script i t := by
  cases i <;> simp [script, hw, hh, hp]

/-! ### The panel's step -/

/-- A wire command acts on the panel as its byte does. -/
theorem exec_wire (b : Byte) (i : Instr) (s : State) (h : decodeWire s.params b = some i) :
    exec i s = .next (onPanel (Panel.receive s.params (.byte false b)) s) := by
  unfold decodeWire at h
  iterate 14
    rcases ite_eq_iff.mp h with ⟨e, h⟩ | ⟨_, h⟩
    · cases h; subst e
      simp [exec, execSwreset, execRamwr, execSlpout, execNoron, execInvoff, execInvon, execDispoff, execDispon,
        execCaset, execRaset, execVscrdef, execMadctl, execVscrsadd, execColmod, Panel.receive, onPanel, *]
  cases h

/-- Receiving an item of the wire is a function on the panel. -/
theorem receive_eq (item : WireItem) (s : State) :
    receive item s = .next (onPanel (Panel.receive s.params item) s) := by
  cases item with
  | cut => rfl
  | byte dc b =>
    cases dc with
    | true => rfl
    | false =>
      simp only [receive]
      split
      · exact exec_wire b _ s ‹_›
      · have hn := decodeWire_none _ _ ‹_›
        have h1 : b ≠ s.params.cmdRamwr := by rintro rfl; simp [Params.commands] at hn
        have h2 : b ≠ s.params.cmdSwreset := by rintro rfl; simp [Params.commands] at hn
        simp [onPanel, Panel.receive, h1, h2]

/-! ### The sequencer's fetch -/

/-- What the fetch runs is an operation of the descriptor port, and the sequencer was free to fetch it. -/
theorem fetch_run (s : State) (i : Instr) (h : fetch s = .run i) :
    i.format = .desc128 ∧ s.fatal = false ∧ s.offered = none := by
  unfold fetch at h
  split at h
  · cases h
  · split at h
    · cases h
    · rename_i hf ho
      refine ⟨?_, by simpa using hf, by simpa using ho⟩
      unfold fetchStream at h
      repeat' split at h
      all_goals first
        | (cases h; exact decode_format _ _ _ ‹_›)
        | cases h

/-- Outside an operation the fetch only stops, skips or waits when the sequencer was free. -/
theorem fetch_other (s : State) (h : fetch s = .illegal ∨ fetch s = .wait) : s.fatal = false ∧ s.offered = none := by
  unfold fetch at h
  split at h
  · simp at h
  · split at h
    · simp at h
    · rename_i hf ho
      exact ⟨by simpa using hf, by simpa using ho⟩

theorem takeIllegal_eq (s : State) : takeIllegal s = s.ended .illegalOp 16 :=
  endOperation_accept _ _ _ (by simp)

/-- INVERSION of a step: the reset input, the panel's step, or the sequencer's: an operation, an illegal
descriptor, a BLIT that waits. -/
theorem step_cases (s t : State) (h : step s = .next t) :
    (s.resetRequest = true ∧ t = blockReset s) ∨
    (∃ item rest, s.wire = item :: rest ∧ t = { s with wire := rest, panel := s.panel.receive s.params item }) ∨
    (s.wire = [] ∧ s.fatal = false ∧ s.offered = none ∧
      ((∃ i, i.format = .desc128 ∧ exec i s = .next t) ∨ t = s.ended .illegalOp 16 ∨ t = accept s)) := by
  unfold step at h
  split at h
  · left; cases h; exact ⟨‹_›, rfl⟩
  · right
    split at h
    · left
      rename_i item rest hw
      rw [receive_eq] at h
      cases h
      exact ⟨item, rest, hw, rfl⟩
    · right
      rename_i hw
      refine ⟨hw, ?_⟩
      split at h
      · rename_i i hf
        obtain ⟨h1, h2, h3⟩ := fetch_run s i hf
        exact ⟨h2, h3, .inl ⟨i, h1, h⟩⟩
      · rename_i hf
        obtain ⟨h2, h3⟩ := fetch_other s (.inl hf)
        cases h
        exact ⟨h2, h3, .inr (.inl (takeIllegal_eq s))⟩
      · rename_i hf
        obtain ⟨h2, h3⟩ := fetch_other s (.inr hf)
        cases h
        exact ⟨h2, h3, .inr (.inr rfl)⟩
      · cases h

/-- INVERSION of an operation of the descriptor port: it ends with status OK, or one of its events is stalled,
failed or met by the reset input, or it is rejected before its first event. -/
theorem exec_desc_cases (i : Instr) (s t : State) (hi : i.format = .desc128) (h : exec i s = .next t) :
    (∃ ms, script i s = some ms ∧ t = ((scriptWrites ms s).emitted (scriptEvents ms s)).ended .ok i.size) ∨
    (∃ ms₁ m ms₂ e a rest, script i s = some (ms₁ ++ m :: ms₂) ∧ m.event (scriptWrites ms₁ s) = some e ∧
      s.answers.drop (scriptEvents ms₁ s).length = a :: rest ∧
      ((a = .stall ∧ t = stallOn e (stoppedAt ms₁ m rest s)) ∨
       (a = .fail ∧ e.canFail = true ∧ t = failTransport e (stoppedAt ms₁ m rest s)) ∨
       (a = .reset ∧ t = blockReset (cutShort (stoppedAt ms₁ m rest s))))) ∨
    (script i s = none ∧ t = rejected i s) := by
  rw [exec_desc i s hi] at h
  cases hs : script i s with
  | none => right; right; simp only [hs] at h; cases h; exact ⟨rfl, rfl⟩
  | some ms =>
    simp only [hs, Host.Outcome.next.injEq] at h
    subst h
    rcases runOperation_cases i.size ms s with h | ⟨ms₁, m, ms₂, e, a, rest, rfl, he, ha, hr, h⟩
    · left; exact ⟨ms, rfl, h⟩
    · right; left
      refine ⟨ms₁, m, ms₂, e, a, rest, rfl, he, hr, ?_⟩
      rw [h]
      rcases ha with rfl | ⟨rfl, hc⟩ | rfl
      · exact .inl ⟨rfl, rfl⟩
      · exact .inr (.inl ⟨rfl, hc, rfl⟩)
      · exact .inr (.inr ⟨rfl, rfl⟩)

/-- A FRAME of an operation, short of the reset input: what the pseudocode's writes keep, and what accepting,
emitting, stalling, failing and ending keep, holds of the state the operation leaves. -/
theorem exec_frame (P : State → Prop) (i : Instr) (s : State) (hi : i.format = .desc128) (hn : s.NoReset)
    (hrej : script i s = none → P (rejected i s))
    (hall : ∀ ms, script i s = some ms → P (scriptWrites ms s))
    (hpre : ∀ ms₁ m ms₂, script i s = some (ms₁ ++ m :: ms₂) → P (scriptWrites (ms₁ ++ [m]) s))
    (hemit : ∀ u es, P u → P (u.emitted es)) (hend : ∀ u n, P u → P (u.ended .ok n))
    (hstop : ∀ ms m rest, P (scriptWrites (ms ++ [m]) s) → P (stoppedAt ms m rest s))
    (hstall : ∀ u e, P u → P (stallOn e u)) (hfail : ∀ u e, P u → P (failTransport e u)) :
    ∃ t, exec i s = .next t ∧ P t := by
  refine ⟨_, exec_desc i s hi, ?_⟩
  rcases exec_desc_cases i s _ hi (exec_desc i s hi) with
    ⟨ms, hs, ht⟩ | ⟨ms₁, m, ms₂, e, a, rest, hs, -, hr, h⟩ | ⟨hs, ht⟩
  · rw [ht]; exact hend _ _ (hemit _ _ (hall ms hs))
  · have hp := hstop ms₁ m rest (hpre ms₁ m ms₂ hs)
    rcases h with ⟨-, ht⟩ | ⟨-, -, ht⟩ | ⟨rfl, -⟩
    · rw [ht]; exact hstall _ _ hp
    · rw [ht]; exact hfail _ _ hp
    · exact absurd (List.mem_of_mem_drop (hr ▸ List.mem_cons_self)) hn
  · rw [ht]; exact hrej hs

/-- If an operation, all its events accepted, emits `es`, and the environment ends it at the `k`-th of them, it
is cut short there, with the events before it emitted. -/
theorem exec_ends (i : Instr) (s u : State) (es : List Event) (k : Nat) (e : Event) (a : Answer)
    (rest : List Answer) (hi : i.format = .desc128) (hu : exec i { s with answers := [] } = .next u)
    (ht : u.trace = s.trace ++ accepted es) (hk : es[k]? = some e) (ha : a.Ends e)
    (hs : s.answers = List.replicate k .accept ++ a :: rest) :
    ∃ ms₁ m, exec i s = .next (giveUp a e (stoppedAt ms₁ m rest s)) ∧ scriptEvents ms₁ s = es.take k := by
  have hc : script i { s with answers := [] } = script i s := script_congr _ _ _ rfl rfl rfl
  rw [exec_desc i _ hi, hc] at hu
  cases hsc : script i s with
  | none =>
    simp only [hsc, Host.Outcome.next.injEq] at hu
    have htr : u.trace = s.trace := by rw [← hu]; unfold rejected; split <;> rfl
    have hes : es = [] := by simpa [accepted, htr] using ht
    simp [hes] at hk
  | some ms =>
    simp only [hsc, Host.Outcome.next.injEq] at hu
    rw [runOperation_accepting _ _ _ (by simp [State.Accepting]), scriptWrites_withAnswers,
      scriptEvents_withAnswers] at hu
    have hes : scriptEvents ms s = es := by
      rw [← hu] at ht
      exact accepted_inj _ _ (by simpa using ht)
    obtain ⟨ms₁, m, ms₂, rfl, hlen, htk, hev⟩ := scriptEvents_split ms s k e (hes ▸ hk)
    refine ⟨ms₁, m, ?_, by rw [htk, hes]⟩
    rw [exec_desc i s hi, hsc]
    simp only
    rw [runOperation_ends i.size ms₁ ms₂ m s e a rest hev ha (by rw [hlen, hs])]

end Sys2Proof.Machine
end

