-- ==== Sys2Proof/Laws/Memory.lean ====
section
/-! SUPPORT. The laws of the byte memory: a read after a write, every other address untouched, and the canonical
form kept by every operation. -/

namespace Sys2Proof.Machine

@[simp] theorem Mem.read_nil (k : Nat) : Mem.read [] k = none := rfl

theorem Mem.wf_nil : Mem.wf [] := List.Pairwise.nil

/-- Below every listed address nothing is read. -/
theorem Mem.read_eq_none_of_lt (m : Mem) (k : Nat) (h : ∀ c ∈ m, k < c.1) : m.read k = none := by
  induction m with
  | nil => rfl
  | cons c m ih =>
    obtain ⟨a, b⟩ := c
    have hk : k ≠ a := by have := h (a, b) (by simp); omega
    simp only [Mem.read, hk, if_false]
    exact ih fun c hc => h c (by simp [hc])

/-- Read after write. -/
theorem Mem.read_write (m : Mem) (k j : Nat) (v : Byte) :
    (m.write k v).read j = if j = k then some v else m.read j := by
  induction m with
  | nil => simp [Mem.write, Mem.read]
  | cons c m ih =>
    obtain ⟨a, b⟩ := c
    simp only [Mem.write]
    split
    · simp [Mem.read]
    · split
      · rename_i h
        subst h
        by_cases hj : j = k <;> simp [Mem.read, hj]
      · simp only [Mem.read, ih]
        by_cases hj : j = a <;> by_cases hk : j = k <;> simp_all

@[simp] theorem Mem.read_write_same (m : Mem) (k : Nat) (v : Byte) : (m.write k v).read k = some v := by
  simp [Mem.read_write]

/-- A write leaves every other address alone. -/
theorem Mem.read_write_ne (m : Mem) (k j : Nat) (v : Byte) (h : j ≠ k) : (m.write k v).read j = m.read j := by
  simp [Mem.read_write, h]

/-- What a write lists: the address written and addresses that were listed. -/
theorem Mem.mem_write (m : Mem) (k : Nat) (v : Byte) (c : Host.Cell) (h : c ∈ m.write k v) : c.1 = k ∨ c ∈ m := by
  induction m with
  | nil => simp [Mem.write] at h; simp [h]
  | cons d m ih =>
    obtain ⟨a, b⟩ := d
    simp only [Mem.write] at h
    split at h
    · rcases List.mem_cons.1 h with h | h
      · simp [h]
      · exact .inr h
    · split at h
      · rcases List.mem_cons.1 h with h | h
        · simp [h]
        · exact .inr (by simp [h])
      · rcases List.mem_cons.1 h with h | h
        · exact .inr (by simp [h])
        · rcases ih h with h | h
          · exact .inl h
          · exact .inr (by simp [h])

/-- A write keeps the canonical form. -/
theorem Mem.write_wf (m : Mem) (k : Nat) (v : Byte) (h : m.wf) : (m.write k v).wf := by
  induction m with
  | nil => exact List.pairwise_singleton _ _
  | cons c m ih =>
    obtain ⟨a, b⟩ := c
    obtain ⟨hlt, hm⟩ := List.pairwise_cons.1 h
    simp only [Mem.write]
    split
    · rename_i hk
      refine List.pairwise_cons.2 ⟨fun d hd => ?_, h⟩
      rcases List.mem_cons.1 hd with hd | hd
      · simpa [hd] using hk
      · exact lt_trans hk (hlt d hd)
    · split
      · rename_i hk
        subst hk
        exact List.pairwise_cons.2 ⟨hlt, hm⟩
      · rename_i h1 h2
        refine List.pairwise_cons.2 ⟨fun d hd => ?_, ih hm⟩
        rcases Mem.mem_write m k v d hd with hd | hd
        · simp only [hd]; omega
        · exact hlt d hd

theorem Mem.writeRange_wf (bs : List Byte) (m : Mem) (a : Nat) (h : m.wf) : (m.writeRange a bs).wf := by
  induction bs generalizing m a with
  | nil => exact h
  | cons b bs ih => exact ih _ _ (Mem.write_wf m a b h)

/-- Bytes below a written range are untouched. -/
theorem Mem.read_writeRange_of_lt (bs : List Byte) (m : Mem) (a j : Nat) (h : j < a) :
    (m.writeRange a bs).read j = m.read j := by
  induction bs generalizing m a with
  | nil => rfl
  | cons b bs ih =>
    simp only [Mem.writeRange]
    rw [ih _ _ (by omega), Mem.read_write_ne _ _ _ _ (by omega)]

/-- Reading back what was written over a range. -/
theorem Mem.readRange_writeRange (bs : List Byte) (m : Mem) (a : Nat) :
    (m.writeRange a bs).readRange a bs.length = some bs := by
  induction bs generalizing m a with
  | nil => rfl
  | cons b bs ih =>
    have h : (Mem.writeRange (m.write a b) (a + 1) bs).read a = some b := by
      rw [Mem.read_writeRange_of_lt _ _ _ _ (by omega), Mem.read_write_same]
    simp [Mem.writeRange, Mem.readRange, h, ih]

/-- A range that reads has the length asked for. -/
theorem Mem.length_readRange (m : Mem) (n a : Nat) (bs : List Byte) (h : m.readRange a n = some bs) :
    bs.length = n := by
  induction n generalizing a bs with
  | zero => simp [Mem.readRange] at h; simp [← h]
  | succ n ih =>
    simp only [Mem.readRange] at h
    split at h
    · cases h
    · split at h
      · cases h
      · rename_i hb _ bs' hr
        cases h
        simp [ih _ _ hr]

/-- A longer range that reads begins with the shorter one and goes on with the rest. -/
theorem Mem.readRange_add (m : Mem) (n k a : Nat) :
    m.readRange a (n + k) =
      match m.readRange a n with
      | none => none
      | some bs =>
        match m.readRange (a + n) k with
        | none => none
        | some cs => some (bs ++ cs) := by
  induction n generalizing a with
  | zero => simp only [Mem.readRange, Nat.zero_add, Nat.add_zero]; split <;> simp_all
  | succ n ih =>
    rw [show n + 1 + k = (n + k) + 1 by omega]
    simp only [Mem.readRange, ih]
    rw [show a + 1 + n = a + (n + 1) by omega]
    cases m.read a with
    | none => rfl
    | some b =>
      cases m.readRange (a + 1) n with
      | none => rfl
      | some bs => cases m.readRange (a + (n + 1)) k <;> rfl

/-- The first bytes of a range that reads. -/
theorem Mem.readRange_take (m : Mem) (n k a : Nat) (bs : List Byte) (h : m.readRange a n = some bs) (hk : k ≤ n) :
    m.readRange a k = some (bs.take k) := by
  obtain ⟨j, rfl⟩ := Nat.exists_eq_add_of_le hk
  rw [Mem.readRange_add] at h
  split at h
  · cases h
  · rename_i xs hx
    split at h
    · cases h
    · cases h
      rw [hx, List.take_left' (Mem.length_readRange m k a xs hx)]

/-- The later bytes of a range that reads. -/
theorem Mem.readRange_drop (m : Mem) (n k a : Nat) (bs : List Byte) (h : m.readRange a (k + n) = some bs) :
    m.readRange (a + k) n = some (bs.drop k) := by
  rw [Mem.readRange_add] at h
  split at h
  · cases h
  · rename_i xs hx
    split at h
    · cases h
    · rename_i ys hy
      cases h
      rw [hy, List.drop_left' (Mem.length_readRange m k a xs hx)]

end Sys2Proof.Machine
end

