-- ==== Sys2Proof/Laws/Panel.lean ====
section
/-! SUPPORT. The laws of the receiving panel: feeding in pieces, the canonical form of its memory, and what one
pixel of a memory write does (spec 20_memory R63, R64). -/

namespace Sys2Proof.Machine

@[simp] theorem Panel.feed_nil (cfg : Params) (p : Panel) : p.feed cfg [] = p := rfl

@[simp] theorem Panel.feed_cons (cfg : Params) (p : Panel) (item : WireItem) (items : List WireItem) :
    p.feed cfg (item :: items) = (p.receive cfg item).feed cfg items := rfl

theorem Panel.feed_append (cfg : Params) (p : Panel) (xs ys : List WireItem) :
    p.feed cfg (xs ++ ys) = (p.feed cfg xs).feed cfg ys := by
  simp [Panel.feed]

/-! ### The canonical form is kept -/

theorem Panel.store_wf (hi lo : Byte) (p : Panel) (h : p.fm.wf) : (Panel.store hi lo p).fm.wf := by
  unfold Panel.store
  split
  · exact Mem.write_wf _ _ _ (Mem.write_wf _ _ _ h)
  · exact h

@[simp] theorem Panel.advance_fm (p : Panel) : p.advance.fm = p.fm := by unfold Panel.advance; split <;> rfl

theorem Panel.addressByte_wf (load : Half → Half → Panel → Panel) (b : Byte) (p : Panel) (h : p.fm.wf)
    (hl : ∀ x y q, (load x y q).fm = q.fm) : (p.addressByte load b).fm.wf := by
  unfold Panel.addressByte
  split
  · rw [hl]; exact h
  · split
    · exact h
    · exact Mem.wf_nil

theorem Panel.pixelByte_wf (cfg : Params) (b : Byte) (p : Panel) (h : p.fm.wf) : (p.pixelByte cfg b).fm.wf := by
  unfold Panel.pixelByte
  split
  · exact h
  · rw [Panel.advance_fm]
    split
    · exact Panel.store_wf _ _ _ h
    · exact Mem.wf_nil

/-- Whatever it receives, the panel keeps its memory in canonical form. -/
theorem Panel.receive_wf (cfg : Params) (item : WireItem) (p : Panel) (h : p.fm.wf) : (p.receive cfg item).fm.wf := by
  cases item with
  | cut => exact Mem.wf_nil
  | byte dc b =>
    cases dc with
    | false =>
      simp only [Panel.receive]
      split
      · exact Mem.wf_nil
      · split <;> exact h
    | true =>
      simp only [Panel.receive, Panel.data]
      split
      · exact Panel.addressByte_wf _ _ _ h fun _ _ _ => rfl
      · exact Panel.addressByte_wf _ _ _ h fun _ _ _ => rfl
      · exact Panel.pixelByte_wf _ _ _ h
      · exact h
      · exact h
      · exact Mem.wf_nil

/-! ### What a data byte does, by the current command -/

theorem Panel.data_caset (cfg : Params) (hd : cfg.Distinct) (b : Byte) (p : Panel) (h : p.cmd = some cfg.cmdCaset) :
    p.data cfg b = p.addressByte Panel.loadColumns b := by
  simp [Panel.data, Panel.current, h, hd.decode_caset]

theorem Panel.data_raset (cfg : Params) (hd : cfg.Distinct) (b : Byte) (p : Panel) (h : p.cmd = some cfg.cmdRaset) :
    p.data cfg b = p.addressByte Panel.loadRows b := by
  simp [Panel.data, Panel.current, h, hd.decode_raset]

theorem Panel.data_ramwr (cfg : Params) (hd : cfg.Distinct) (b : Byte) (p : Panel) (h : p.cmd = some cfg.cmdRamwr) :
    p.data cfg b = p.pixelByte cfg b := by
  simp [Panel.data, Panel.current, h, hd.decode_ramwr]

/-- Data of a command that takes none, or of no command, has no meaning. -/
theorem Panel.data_other (cfg : Params) (b : Byte) (p : Panel)
    (h : ∀ c ∈ [cfg.cmdCaset, cfg.cmdRaset, cfg.cmdRamwr, cfg.cmdMadctl, cfg.cmdColmod], p.cmd ≠ some c) :
    p.data cfg b = p.unspecified := by
  have key : ∀ i c, p.current cfg = some i → encode cfg i = [c] → p.cmd = some c := by
    intro i c hi he
    obtain ⟨b', hb, hw⟩ := Option.bind_eq_some_iff.mp hi
    rw [hb, ← List.singleton_inj.mp ((decodeWire_some cfg b' i hw).2.symm.trans he)]
  unfold Panel.data
  split
  · rename_i h'; exact absurd (key _ _ h' rfl) (h _ (by simp))
  · rename_i h'; exact absurd (key _ _ h' rfl) (h _ (by simp))
  · rename_i h'; exact absurd (key _ _ h' rfl) (h _ (by simp))
  · rename_i h'; exact absurd (key _ _ h' rfl) (h _ (by simp))
  · rename_i h'; exact absurd (key _ _ h' rfl) (h _ (by simp))
  · rfl

/-! ### Whether the sink has a meaning -/

@[simp] theorem Panel.advance_meaningful (p : Panel) : p.advance.meaningful = p.meaningful := by
  unfold Panel.advance; split <;> rfl

@[simp] theorem Panel.store_meaningful (hi lo : Byte) (p : Panel) : (Panel.store hi lo p).meaningful = p.meaningful := by
  unfold Panel.store; split <;> rfl

@[simp] theorem Panel.addressByte_meaningful (load : Half → Half → Panel → Panel) (b : Byte) (p : Panel)
    (hl : ∀ x y q, (load x y q).meaningful = q.meaningful) : (p.addressByte load b).meaningful = p.meaningful := by
  unfold Panel.addressByte
  split
  · rw [hl]
  · split <;> rfl

/-- No data byte, whether it has a meaning or not, changes whether the sink has one. -/
@[simp] theorem Panel.data_meaningful (cfg : Params) (b : Byte) (p : Panel) : (p.data cfg b).meaningful = p.meaningful := by
  unfold Panel.data
  split
  · exact Panel.addressByte_meaningful _ _ _ fun _ _ _ => rfl
  · exact Panel.addressByte_meaningful _ _ _ fun _ _ _ => rfl
  · unfold Panel.pixelByte
    split
    · rfl
    · rw [Panel.advance_meaningful]
      split
      · rw [Panel.store_meaningful]
      · rfl
  · rfl
  · rfl
  · rfl

/-- A panel without a meaning gets one by a software reset only. -/
theorem Panel.feed_meaningless (cfg : Params) (items : List WireItem) (h : .byte false cfg.cmdSwreset ∉ items) (p : Panel)
    (hp : p.meaningful = false) : (p.feed cfg items).meaningful = false := by
  induction items generalizing p with
  | nil => exact hp
  | cons item items ih =>
    obtain ⟨h1, h2⟩ := not_or.mp (List.mem_cons.not.mp h)
    refine ih h2 _ ?_
    match item with
    | .cut => rfl
    | .byte true b => exact (Panel.data_meaningful cfg b p).trans hp
    | .byte false b =>
      have hb : b ≠ cfg.cmdSwreset := fun e => h1 (e ▸ rfl)
      simp only [Panel.receive, hb, if_false]
      split <;> exact hp

/-! ### One pixel -/

@[simp] theorem ofBe16_be16 (v : Half) : ofBe16 (hi8 v) (lo8 v) = v := by
  apply BitVec.eq_of_getLsbD_eq
  intro i hi
  simp only [ofBe16, hi8, lo8, BitVec.getLsbD_append, BitVec.getLsbD_extractLsb']
  interval_cases i <;> rfl

theorem fmAddr_inj (c r c' r' : Half) : fmAddr c r = fmAddr c' r' ↔ c = c' ∧ r = r' := by
  simp only [fmAddr, ← BitVec.toNat_inj]
  omega

theorem fmAddr_ne_succ (c r c' r' : Half) : fmAddr c r ≠ fmAddr c' r' + 1 := by
  simp only [fmAddr]
  omega

/-- Storing a pixel: that pixel has the new value, every other pixel is as it was. -/
theorem Panel.pixel_store (hi lo : Byte) (p : Panel) (h : p.meaningful = true) (col row : Half) :
    (Panel.store hi lo p).pixel col row =
      if col = p.col ∧ row = p.row then some (ofBe16 hi lo) else p.pixel col row := by
  simp only [Panel.store, h, if_true, Panel.pixel, Mem.read_write, fmAddr_inj, fmAddr_ne_succ, if_false,
    (fmAddr_ne_succ _ _ _ _).symm, Nat.add_right_cancel_iff]
  by_cases hp : col = p.col ∧ row = p.row <;> simp [hp]

/-- The two bytes of a pixel after a memory-write command: it is stored at the pointer, which moves on. -/
theorem Panel.feed_pixel (cfg : Params) (hd : cfg.Distinct) (c : Half) (p : Panel) (hc : p.cmd = some cfg.cmdRamwr)
    (hh : p.half = none) (hw : p.windowLegal cfg = true) :
    p.feed cfg ((be16 c).map (WireItem.byte true)) = (Panel.store (hi8 c) (lo8 c) p).advance := by
  have h0 : ∀ b (q : Panel), q.cmd = some cfg.cmdRamwr → q.receive cfg (.byte true b) = q.pixelByte cfg b := by
    intro b q hq
    exact q.data_ramwr cfg hd b hq
  have h1 : p.pixelByte cfg (hi8 c) = { p with half := some (hi8 c) } := by simp [Panel.pixelByte, hh]
  have h2 : ({ p with half := some (hi8 c) } : Panel).windowLegal cfg = true := hw
  have h3 : ({ p with half := none } : Panel) = p := by cases p; simp_all
  simp only [be16, List.map_cons, List.map_nil, Panel.feed_cons, Panel.feed_nil]
  rw [h0 _ p hc, h1, h0 (lo8 c) { p with half := some (hi8 c) } hc]
  simp only [Panel.pixelByte, h2, if_true, h3]

/-- A colour's bytes, pixel after pixel. -/
theorem Panel.feed_pixels_cons (cfg : Params) (c : Half) (px : List Half) (p : Panel) :
    p.feed cfg (((c :: px).flatMap be16).map (WireItem.byte true)) =
      (p.feed cfg ((be16 c).map (WireItem.byte true))).feed cfg ((px.flatMap be16).map (WireItem.byte true)) := by
  rw [List.flatMap_cons, List.map_append, Panel.feed_append]

end Sys2Proof.Machine
end

