-- ==== Sys2Proof/Laws/Raster.lean ====
section
/-! SUPPORT. The loops of the rasterizer, said once: how many points, and where each lies (spec 43_rasterizer
R170, R172, R174, R175). -/

namespace Sys2Proof.Machine

/-! ### LINE -/

@[simp] theorem length_lineLoop (steep : Bool) (dx dy ystep : Int) (n : Nat) (x y err : Int) :
    (lineLoop steep dx dy ystep n x y err).length = n := by
  induction n generalizing x y err with
  | zero => rfl
  | succ n ih => by_cases h : err - dy < 0 <;> simp only [lineLoop, h, if_true, if_false, List.length_cons, ih]

/-- A point of the line loop: `k` turns along, `m` rows stepped, with the error the loop then holds. -/
structure LinePoint (dx dy : Int) (n : Nat) (err : Int) (k m e : Int) : Prop where
  k_nonneg : 0 ≤ k
  k_lt : k < n
  m_nonneg : 0 ≤ m
  e_nonneg : 0 ≤ e
  e_lt : e < max dx 1
  balance : m * dx = k * dy + e - err
  degenerate : dx = 0 → m = 0

/-- Plotted coordinates of running coordinates. -/
def linePoint (steep : Bool) (x y : Int) : Point := if steep then (y, x) else (x, y)

/-- The balance after one turn of the loop. -/
theorem LinePoint.turn {dx dy : Int} {n : Nat} {err k m e : Int} (h : LinePoint dx dy n err k m e) (c : Int)
    (hc : c = 0 ∨ c = 1 ∧ dx ≠ 0) : LinePoint dx dy (n + 1) (err - c * dx + dy) (k + 1) (m + c) e where
  k_nonneg := by have := h.k_nonneg; omega
  k_lt := by have := h.k_lt; push_cast; omega
  m_nonneg := by have := h.m_nonneg; omega
  e_nonneg := h.e_nonneg
  e_lt := h.e_lt
  balance := by linear_combination h.balance
  degenerate := fun h0 => by have := h.degenerate h0; omega

theorem lineLoop_mem (steep : Bool) (dx dy ystep : Int) (n : Nat) (x y err : Int) (hdy : 0 ≤ dy) (hdx : dy ≤ dx)
    (he : 0 ≤ err) (he' : err < max dx 1) (p : Point) (hp : p ∈ lineLoop steep dx dy ystep n x y err) :
    ∃ k m e, LinePoint dx dy n err k m e ∧ p = linePoint steep (x + k) (y + m * ystep) := by
  induction n generalizing x y err with
  | zero => cases hp
  | succ n ih =>
    simp only [lineLoop, List.mem_cons] at hp
    rcases hp with hp | hp
    · exact ⟨0, 0, err, ⟨le_refl _, by push_cast; omega, le_refl _, he, he', by ring, fun _ => rfl⟩, by
        simp [hp, linePoint]⟩
    · split at hp
      · rename_i hneg
        obtain ⟨k, m, e, h, rfl⟩ := ih _ _ _ (by omega) (by omega) hp
        refine ⟨k + 1, m + 1, e, ?_, by congr 1 <;> ring⟩
        have := h.turn 1 (.inr ⟨rfl, by omega⟩)
        rwa [show err - dy + dx - 1 * dx + dy = err by ring] at this
      · obtain ⟨k, m, e, h, rfl⟩ := ih _ _ _ (by omega) (by omega) hp
        refine ⟨k + 1, m, e, ?_, by congr 1; ring⟩
        have := h.turn 0 (.inl rfl)
        rwa [show err - dy - 0 * dx + dy = err by ring, add_zero] at this

/-- The last point of the line loop has made every turn. -/
theorem lineLoop_getLast (steep : Bool) (dx dy ystep : Int) (n : Nat) (x y err : Int) (hdy : 0 ≤ dy)
    (hdx : dy ≤ dx) (he : 0 ≤ err) (he' : err < max dx 1) :
    ∃ m e, LinePoint dx dy (n + 1) err n m e ∧
      (lineLoop steep dx dy ystep (n + 1) x y err).getLast? = some (linePoint steep (x + n) (y + m * ystep)) := by
  induction n generalizing x y err with
  | zero =>
    exact ⟨0, err, ⟨by simp, by simp, le_refl _, he, he', by simp, fun _ => rfl⟩, by
      simp [lineLoop, linePoint]⟩
  | succ n ih =>
    rw [lineLoop]
    by_cases hneg : err - dy < 0
    · rw [if_pos hneg]
      obtain ⟨m, e, h, hl⟩ := ih (x + 1) (y + ystep) (err - dy + dx) (by omega) (by omega)
      refine ⟨m + 1, e, ?_, ?_⟩
      · have := h.turn 1 (.inr ⟨rfl, by omega⟩)
        rwa [show err - dy + dx - 1 * dx + dy = err by ring, ← Nat.cast_succ] at this
      · rw [List.getLast?_cons, hl, Option.getD_some]
        push_cast
        congr 2 <;> ring
    · rw [if_neg hneg]
      obtain ⟨m, e, h, hl⟩ := ih (x + 1) y (err - dy) (by omega) (by omega)
      refine ⟨m, e, ?_, ?_⟩
      · have := h.turn 0 (.inl rfl)
        rwa [show err - dy - 0 * dx + dy = err by ring, add_zero, ← Nat.cast_succ] at this
      · rw [List.getLast?_cons, hl, Option.getD_some]
        push_cast
        congr 2; ring

/-! ### CIRCLE -/

/-- The circle's loop plots the eight points of some octant offsets `(x, y)`, turn by turn. -/
theorem circleLoop_eq (xc yc : Int) (n : Nat) (f ddFx ddFy x y : Int) :
    ∃ offsets : List (Int × Int), offsets.length ≤ n ∧
      circleLoop xc yc n f ddFx ddFy x y = offsets.flatMap fun o => octantPoints xc yc o.1 o.2 := by
  induction n generalizing f ddFx ddFy x y with
  | zero => exact ⟨[], le_refl _, rfl⟩
  | succ n ih =>
    simp only [circleLoop]
    split
    · split
      · obtain ⟨os, hl, h⟩ := ih (f + (ddFy + 2) + (ddFx + 2)) (ddFx + 2) (ddFy + 2) (x + 1) (y - 1)
        exact ⟨(x + 1, y - 1) :: os, by simpa using hl, by simp [h]⟩
      · obtain ⟨os, hl, h⟩ := ih (f + (ddFx + 2)) (ddFx + 2) ddFy (x + 1) y
        exact ⟨(x + 1, y) :: os, by simpa using hl, by simp [h]⟩
    · exact ⟨[], Nat.zero_le _, rfl⟩

/-- Turns beyond the end of the circle's loop add nothing: each turn brings `x` at least one nearer to `y`. -/
theorem circleLoop_enough (xc yc : Int) (n k : Nat) (f ddFx ddFy x y : Int) (h : y - x ≤ n) :
    circleLoop xc yc (n + k) f ddFx ddFy x y = circleLoop xc yc n f ddFx ddFy x y := by
  induction n generalizing f ddFx ddFy x y with
  | zero =>
    have hxy : ¬ x < y := by push_cast at h; omega
    cases k with
    | zero => rfl
    | succ k => simp [circleLoop, hxy]
  | succ n ih =>
    rw [show n + 1 + k = (n + k) + 1 by omega]
    simp only [circleLoop]
    push_cast at h
    split
    · split
      · rw [ih _ _ _ _ _ (by omega)]
      · rw [ih _ _ _ _ _ (by omega)]
    · rfl

end Sys2Proof.Machine
end

