-- ==== Sys2Proof/Tests/Slice0.lean ====
section
/-! SUPPORT. The model's own tests. Expected values are spec/95_test_vectors' and the worked examples of the
rules, never the model's own answers. First the tests, then a witness for the hypotheses of each obligation. -/

namespace Sys2Proof.Tests

open Sys2Proof Sys2Proof.Machine

/-! ### Helpers -/

def bytesOf (ns : List Nat) : List Byte := ns.map (BitVec.ofNat 8)

/-- A state with these bytes in the stream at `pc`. -/
def program (bs : List Nat) (s : State) : State := { s with stream := s.stream.writeRange s.pc (bytesOf bs) }

/-- Whether a step answers a next state. -/
def isNext : Result → Bool
  | .next _ => true
  | .fault _ | .refused _ => false

/-- The next state, the reset state where there is none. -/
def after : Result → State
  | .next t => t
  | .fault _ | .refused _ => State.reset

theorem next_after (r : Result) (h : isNext r = true) : r = .next (after r) := by
  cases r <;> first | rfl | cases h

/-- One descriptor run from the reset state. -/
def ran (bs : List Nat) : State := after (step (program bs State.reset))

/-- One descriptor run from the reset state in mode 4. -/
def ran4 (bs : List Nat) : State := after (step (program bs (State.reset.inMode 4#3)))

/-- A trace as numbers: dc and the bytes of a transfer, 2 and the reset level, 3 and the backlight level, 4 and
the milliseconds. -/
def bare (s : State) : List (List Nat) :=
  s.trace.map fun e =>
    match e.event with
    | .xfer dc bs => dc.toNat :: bs.map BitVec.toNat
    | .rst l => [2, l.toNat]
    | .bl l => [3, l.toNat]
    | .delay ms => [4, ms]

def windowRegs (s : State) : List Nat := [s.winXs.toNat, s.winYs.toNat, s.winXe.toNat, s.winYe.toNat]

def frameRegs (s : State) : List Nat := [s.mode.toNat, s.ox.toNat, s.fw.toNat, s.oy.toNat, s.fh.toNat]

/-- An environment that accepts `k` events and then answers `a`. -/
def facing (k : Nat) (a : Answer) (s : State) : State :=
  { s with answers := List.replicate k .accept ++ [a] }

/-! ### Well-formedness -/

/-- R84: a BLIT owns exactly LEN payload bytes. -/
theorem test_wf_blit_short : (Instr.blit 1 2 2 1 4 (bytesOf [0xF8, 0x00, 0x07])).wf = false := by decide

theorem test_wf_blit_long : (Instr.blit 1 2 2 1 2 (bytesOf [0xF8, 0x00, 0x07])).wf = false := by decide

theorem test_wf_blit : (Instr.blit 1 2 2 1 4 (bytesOf [0xF8, 0x00, 0x07, 0xE0])).wf = true := by decide

/-! ### Encoding: the words of 95_test_vectors 2.1 and 30_encoding R88 -/

/-- Assembly and stream bytes, row by row of the table of 2.1 (a second row of a mnemonic is a signed operand,
an empty payload, a negative coordinate). -/
def encodings : List (Instr × List Nat) :=
  [(.init 0, [1, 0, 0, 0, 0, 0, 0, 0, 0, 0, 0, 0, 0, 0, 0, 0]),
   (.setMode 4, [2, 0, 4, 0, 0, 0, 0, 0, 0, 0, 0, 0, 0, 0, 0, 0]),
   (.setMode (-1), [2, 0, 0xFF, 0xFF, 0, 0, 0, 0, 0, 0, 0, 0, 0, 0, 0, 0]),
   (.setWindow 0 0 169 319, [3, 0, 0, 0, 0, 0, 0xA9, 0, 0x3F, 1, 0, 0, 0, 0, 0, 0]),
   (.blit 1 2 2 1 4 (bytesOf [0xF8, 0, 7, 0xE0]),
    [4, 0, 1, 0, 2, 0, 2, 0, 1, 0, 0, 0, 4, 0, 0, 0, 0xF8, 0, 7, 0xE0, 0, 0, 0, 0, 0, 0, 0, 0, 0, 0, 0, 0]),
   (.blit 5 5 0 0 0 [], [4, 0, 5, 0, 5, 0, 0, 0, 0, 0, 0, 0, 0, 0, 0, 0]),
   (.fillRect 10 20 16 9 0x07E0, [5, 0, 0x0A, 0, 0x14, 0, 0x10, 0, 9, 0, 0xE0, 7, 0, 0, 0, 0]),
   (.pixel 3 4 0xF800, [6, 0, 3, 0, 4, 0, 0, 0, 0, 0, 0, 0xF8, 0, 0, 0, 0]),
   (.pixel (-1) 3 0xF800, [6, 0, 0xFF, 0xFF, 3, 0, 0, 0, 0, 0, 0, 0xF8, 0, 0, 0, 0]),
   (.clear 0xFFFF, [7, 0, 0, 0, 0, 0, 0, 0, 0, 0, 0xFF, 0xFF, 0, 0, 0, 0]),
   (.line 0 0 2 1 0xFFFF, [8, 0, 0, 0, 0, 0, 2, 0, 1, 0, 0xFF, 0xFF, 0, 0, 0, 0]),
   (.circle 10 10 1 0xFFFF, [9, 0, 0x0A, 0, 0x0A, 0, 1, 0, 0, 0, 0xFF, 0xFF, 0, 0, 0, 0]),
   (.backlight true, [0x0A, 0, 1, 0, 0, 0, 0, 0, 0, 0, 0, 0, 0, 0, 0, 0])]

/-- Whether a decoder's answer is this instruction with nothing left. -/
def reads (r : Except DecodeError (Instr × List Byte)) (i : Instr) : Bool :=
  match r with
  | .ok (j, rest) => j == i && rest == []
  | .error _ => false

theorem test_decode_words : (encodings.all fun p => reads (decode (bytesOf p.2)) p.1) = true := by decide +kernel

theorem test_encode_words : (encodings.all fun p => encode {} p.1 == bytesOf p.2) = true := by decide +kernel

/-- The command bytes of R88. -/
theorem test_decode_wire :
    ([0x01, 0x11, 0x13, 0x20, 0x21, 0x28, 0x29, 0x2A, 0x2B, 0x2C, 0x33, 0x36, 0x37, 0x3A] : List Byte).map (decodeWire {}) =
      [some .swreset, some .slpout, some .noron, some .invoff, some .invon, some .dispoff, some .dispon,
       some .caset, some .raset, some .ramwr, some .vscrdef, some .madctl, some .vscrsadd, some .colmod] := by
  decide

/-- BACKLIGHT reads bit 0 alone: `BACKLIGHT 3` and `BACKLIGHT 2`, vectors V-T3 and V-T4. -/
theorem test_decode_backlight :
    reads (decode (bytesOf [0x0A, 0, 3, 0, 0, 0, 0, 0, 0, 0, 0, 0, 0, 0, 0, 0])) (.backlight true) &&
    reads (decode (bytesOf [0x0A, 0, 2, 0, 0, 0, 0, 0, 0, 0, 0, 0, 0, 0, 0, 0])) (.backlight false) = true := by
  decide

/-- The three illegal descriptors of 2.1, and the BLIT pattern with RSV = 1 of V-E3. -/
theorem test_decode_illegal :
    decode (bytesOf [0x0B, 0, 0, 0, 0, 0, 0, 0, 0, 0, 0, 0, 0, 0, 0, 0]) = .error .illegalOp ∧
    decode (bytesOf [0, 0, 0, 0, 0, 0, 0, 0, 0, 0, 0, 0, 0, 0, 0, 0]) = .error .illegalOp ∧
    decode (bytesOf [5, 1, 0, 0, 0, 0, 1, 0, 1, 0, 0x34, 0x12, 0, 0, 0, 0]) = .error .reservedNotZero ∧
    decode (bytesOf [4, 1, 0, 0, 0, 0, 0, 0, 0, 0, 0, 0, 32, 0, 0, 0]) = .error .reservedNotZero :=
  ⟨rfl, rfl, rfl, rfl⟩

theorem test_decode_short : decode (bytesOf [5, 0, 0]) = .error .shortDescriptor := rfl

/-- Rows of opcode_table.json: `match` bits with every operand 0. -/
theorem test_table_words :
    decodeTableWord 128 0x0005 = some (.fillRect 0 0 0 0 0) ∧ decodeTableWord 8 0x2C = some .ramwr ∧
    decodeTableWord 128 0x040004 = some (.blit 4 0 0 0 0 []) ∧ decodeTableWord 128 0x0105 = none := by
  decide +kernel

theorem test_size : (Instr.blit 1 2 2 1 4 []).size = 32 ∧ (Instr.blit 1 2 2 1 17 []).size = 48 ∧
    (Instr.clear 0).size = 16 := by decide

/-! ### One step of each operation -/

/-- V-I2: INIT 5. Events 14 to 21, but the orientation byte, which is open. -/
theorem test_init :
    let t := ran [1, 0, 5, 0, 0, 0, 0, 0, 0, 0, 0, 0, 0, 0, 0, 0]
    (bare t).take 15 = [[2, 0], [4, 1], [2, 1], [4, 1], [2, 0], [4, 1], [0, 0x01], [4, 150], [0, 0x11], [4, 10],
      [0, 0x3A], [1, 0x55], [0, 0x20], [0, 0x13], [0, 0x36]] ∧
    ((bare t).drop 16).take 6 = [[0, 0x29], [0, 0x2A], [1, 0x00, 0x00, 0x01, 0x3F], [0, 0x2B],
      [1, 0x00, 0x23, 0x00, 0xCC], [0, 0x2C]] ∧
    t.trace.length = 447 ∧ frameRegs t = [5, 0, 320, 35, 170] ∧ windowRegs t = [0, 0, 319, 169] ∧
    t.status = 0x02 ∧ t.rstOut = false := by
  decide +kernel

/-- V-I4: INIT 5, event 15 failed. -/
theorem test_init_failed :
    let t := after (step (facing 15 .fail (program [1, 0, 5, 0, 0, 0, 0, 0, 0, 0, 0, 0, 0, 0, 0, 0] State.reset)))
    t.trace.length = 16 ∧ frameRegs t = [5, 0, 320, 35, 170] ∧ windowRegs t = [0, 0, 0, 0] ∧ t.status = 0x35 ∧
    t.pc = 0 := by
  decide +kernel

/-- S1: SET_MODE 4. -/
theorem test_setMode :
    let t := ran [2, 0, 4, 0, 0, 0, 0, 0, 0, 0, 0, 0, 0, 0, 0, 0]
    (bare t).take 1 = [[0, 0x36]] ∧ t.trace.length = 2 ∧ frameRegs t = [4, 0, 320, 35, 170] ∧ t.status = 0x00 := by
  decide +kernel

/-- V-I6: SET_MODE 8 after SET_MODE 4. -/
theorem test_setMode_invalid :
    let t := ran4 [2, 0, 8, 0, 0, 0, 0, 0, 0, 0, 0, 0, 0, 0, 0, 0]
    t.trace = [] ∧ frameRegs t = [4, 0, 320, 35, 170] ∧ t.status = 0x18 ∧ t.pc = 16 := by
  decide +kernel

/-- V-W1: SET_WINDOW 0, 0, 169, 319. -/
theorem test_setWindow :
    let t := ran [3, 0, 0, 0, 0, 0, 0xA9, 0, 0x3F, 1, 0, 0, 0, 0, 0, 0]
    bare t = [[0, 0x2A], [1, 0x00, 0x23, 0x00, 0xCC], [0, 0x2B], [1, 0x00, 0x00, 0x01, 0x3F]] ∧
    windowRegs t = [0, 0, 169, 319] := by
  decide +kernel

/-- V-B1: BLIT 1, 2, 2, 1 with four payload bytes. -/
theorem test_blit :
    let t := ran [4, 0, 1, 0, 2, 0, 2, 0, 1, 0, 0, 0, 4, 0, 0, 0, 0xF8, 0, 7, 0xE0]
    bare t = [[0, 0x2A], [1, 0x00, 0x24, 0x00, 0x25], [0, 0x2B], [1, 0x00, 0x02, 0x00, 0x02], [0, 0x2C],
      [1, 0xF8, 0x00, 0x07, 0xE0]] ∧ windowRegs t = [1, 2, 2, 2] ∧ t.pc = 32 := by
  decide +kernel

/-- V-B2: LEN = 3 where 4 is needed. -/
theorem test_blit_mismatch :
    let t := ran [4, 0, 1, 0, 2, 0, 2, 0, 1, 0, 0, 0, 3, 0, 0, 0, 0xF8, 0, 7]
    t.trace = [] ∧ t.status = 0x20 ∧ t.pc = 32 ∧ windowRegs t = [0, 0, 0, 0] := by
  decide +kernel

/-- V-F1: FILL_RECT 10, 20, 16, 9, 0x07E0. -/
theorem test_fillRect :
    let t := ran [5, 0, 0x0A, 0, 0x14, 0, 0x10, 0, 9, 0, 0xE0, 7, 0, 0, 0, 0]
    bare t = [[0, 0x2A], [1, 0x00, 0x2D, 0x00, 0x3C], [0, 0x2B], [1, 0x00, 0x14, 0x00, 0x1C], [0, 0x2C],
      1 :: rep [0x07, 0xE0] 128, 1 :: rep [0x07, 0xE0] 16] ∧ windowRegs t = [10, 20, 25, 28] := by
  decide +kernel

/-- V-E4: the same, the first data chunk failed. -/
theorem test_fillRect_failed :
    let t := after (step (facing 5 .fail (program [5, 0, 0x0A, 0, 0x14, 0, 0x10, 0, 9, 0, 0xE0, 7, 0, 0, 0, 0] State.reset)))
    t.trace.length = 6 ∧ t.status = 0x35 ∧ windowRegs t = [10, 20, 25, 28] ∧ t.pc = 0 ∧
    t.tbuf.toList.map BitVec.toNat = rep [0x07, 0xE0] 128 := by
  decide +kernel

/-- V-P4: PIXEL -36, 0, 0x0001: the column wraps. -/
theorem test_pixel :
    let t := ran [6, 0, 0xDC, 0xFF, 0, 0, 0, 0, 0, 0, 1, 0, 0, 0, 0, 0]
    bare t = [[0, 0x2A], [1, 0xFF, 0xFF, 0xFF, 0xFF], [0, 0x2B], [1, 0x00, 0x00, 0x00, 0x00], [0, 0x2C],
      [1, 0x00, 0x01]] ∧ windowRegs t = [65500, 0, 65500, 0] := by
  decide +kernel

/-- V-P6: PIXEL -32768, -32768, 0. -/
theorem test_pixel_lowest :
    let t := ran [6, 0, 0x00, 0x80, 0x00, 0x80, 0, 0, 0, 0, 0, 0, 0, 0, 0, 0]
    (bare t).take 4 = [[0, 0x2A], [1, 0x80, 0x23, 0x80, 0x23], [0, 0x2B], [1, 0x80, 0x00, 0x80, 0x00]] := by
  decide +kernel

/-- V-C2: CLEAR 0xFFFF in mode 4. -/
theorem test_clear :
    let t := ran4 [7, 0, 0, 0, 0, 0, 0, 0, 0, 0, 0xFF, 0xFF, 0, 0, 0, 0]
    (bare t).take 6 = [[0, 0x2A], [1, 0x00, 0x00, 0x01, 0x3F], [0, 0x2B], [1, 0x00, 0x23, 0x00, 0xCC], [0, 0x2C],
      1 :: rep [0xFF, 0xFF] 128] ∧ t.trace.length = 430 ∧ windowRegs t = [0, 0, 319, 169] := by
  decide +kernel

/-- P4: LINE 0, 0, 2, 1, 0xFFFF, the tie. -/
theorem test_line :
    let t := ran [8, 0, 0, 0, 0, 0, 2, 0, 1, 0, 0xFF, 0xFF, 0, 0, 0, 0]
    t.trace.length = 18 ∧ ((bare t).drop 6).take 4 =
      [[0, 0x2A], [1, 0x00, 0x24, 0x00, 0x24], [0, 0x2B], [1, 0x00, 0x00, 0x00, 0x00]] ∧
    windowRegs t = [2, 1, 2, 1] := by
  decide +kernel

/-- S3 and S4: the document's two lines. 2.5: steep lines, a falling line, a line from the lower x, the asymmetry of the tie rule. -/
theorem test_line_points :
    linePoints 0 0 4 0 = [(0, 0), (1, 0), (2, 0), (3, 0), (4, 0)] ∧
    linePoints 0 0 3 3 = [(0, 0), (1, 1), (2, 2), (3, 3)] ∧
    linePoints 0 0 2 5 = [(0, 0), (0, 1), (1, 2), (1, 3), (2, 4), (2, 5)] ∧
    linePoints 3 0 0 3 = [(0, 3), (1, 2), (2, 1), (3, 0)] ∧
    linePoints 0 0 (-4) (-1) = [(-4, -1), (-3, -1), (-2, -1), (-1, 0), (0, 0)] ∧
    linePoints (-2) (-1) 2 1 = [(-2, -1), (-1, -1), (0, 0), (1, 0), (2, 1)] ∧
    linePoints 10 10 4 7 = [(4, 7), (5, 7), (6, 8), (7, 8), (8, 9), (9, 9), (10, 10)] := by
  decide +kernel

/-- P4: CIRCLE 10, 10, 1, 0xFFFF. -/
theorem test_circle :
    let t := ran [9, 0, 0x0A, 0, 0x0A, 0, 1, 0, 0, 0, 0xFF, 0xFF, 0, 0, 0, 0]
    t.trace.length = 72 ∧ windowRegs t = [10, 9, 10, 9] ∧ ((bare t).drop 12).take 4 =
      [[0, 0x2A], [1, 0x00, 0x2E, 0x00, 0x2E], [0, 0x2B], [1, 0x00, 0x0A, 0x00, 0x0A]] := by
  decide +kernel

/-- S5: circle(10,10,5), seeds and the third iteration, where `f` is not negative. -/
theorem test_circle_points :
    (circlePoints 10 10 5).take 4 = [(10, 15), (10, 5), (15, 10), (5, 10)] ∧
    ((circlePoints 10 10 5).drop 20).take 8 =
      [(13, 14), (7, 14), (13, 6), (7, 6), (14, 13), (6, 13), (14, 7), (6, 7)] ∧
    (circlePoints 10 10 5).length = 36 := by
  decide +kernel

/-- V-T1: BACKLIGHT 1. -/
theorem test_backlight :
    let t := ran [0x0A, 0, 1, 0, 0, 0, 0, 0, 0, 0, 0, 0, 0, 0, 0, 0]
    bare t = [[3, 1]] ∧ t.blOut = true ∧ t.status = 0x00 := by
  decide +kernel

/-- V-T5: BACKLIGHT 1, the event failed. -/
theorem test_backlight_failed :
    let t := after (step (facing 0 .fail (program [0x0A, 0, 1, 0, 0, 0, 0, 0, 0, 0, 0, 0, 0, 0, 0, 0] State.reset)))
    t.blOut = true ∧ t.status = 0x35 ∧ t.pc = 0 := by
  decide +kernel

/-- V-E2: OP = 0x0B. -/
theorem test_illegal :
    let t := ran [0x0B, 0, 0, 0, 0, 0, 0, 0, 0, 0, 0, 0, 0, 0, 0, 0]
    t.trace = [] ∧ t.status = 0x40 ∧ t.pc = 16 := by
  decide +kernel

/-- V-E6: a stall: BUSY for ever, no status recorded. -/
theorem test_stall :
    let t := after (step (facing 1 .stall (program [6, 0, 3, 0, 4, 0, 0, 0, 0, 0, 0, 0xF8, 0, 0, 0, 0] State.reset)))
    t.status = 0x01 ∧ t.trace.length = 1 ∧ t.codes = [] := by
  decide +kernel

/-- 2.9: the read port after reset, words 0 to 9. -/
theorem test_read_port :
    (List.range 10).map (fun k => (readPort State.reset (BitVec.ofNat 4 k)).toNat) =
      [0, 0, 0x23, 0xAA, 0, 0x140, 0, 0, 0, 0] := by
  decide

/-! ### One step of each wire command (20_memory R63) -/

/-- `PIXEL 3, 4, 0xF800` in the stream of the reset state. -/
def pixelProgram : State := program [6, 0, 3, 0, 4, 0, 0, 0, 0, 0, 0, 0xF8, 0, 0, 0, 0] State.reset

/-- A panel with a window, a pointer, arguments and half a pixel. -/
def somePanel : Panel :=
  { xs := 38, xe := 40, ys := 4, ye := 6, col := 39, row := 5, cmd := some 0x2C, args := [0x12], half := some 0x34,
    meaningful := true }

/-- A state whose panel receives this command byte next. -/
def onWire (b : Nat) : State := { State.reset with panel := somePanel, wire := [.byte false (BitVec.ofNat 8 b)] }

theorem test_wire_commands :
    ([0x01, 0x11, 0x13, 0x20, 0x21, 0x28, 0x29, 0x2A, 0x2B, 0x2C, 0x33, 0x36, 0x37, 0x3A].all fun b =>
      let p := (after (step (onWire b))).panel
      p.cmd == some (BitVec.ofNat 8 b) && p.args == [] && p.half == none) = true := by
  decide +kernel

theorem test_ramwr_pointer :
    let p := (after (step (onWire 0x2C))).panel
    p.col = 38 ∧ p.row = 4 := by
  decide +kernel

theorem test_caset_keeps_pointer :
    let p := (after (step (onWire 0x2A))).panel
    p.col = 39 ∧ p.row = 5 ∧ p.xs = 38 ∧ p.xe = 40 := by
  decide +kernel

theorem test_swreset_forgets : (after (step (onWire 0x01))).panel.fm = [] := by decide +kernel

/-- R64: column fastest, then the next row, then back to the window's start. -/
theorem test_panel_pixels :
    let p : Panel := { xs := 38, xe := 39, ys := 4, ye := 5, meaningful := true }
    let q := p.feed {} (.byte false 0x2C :: (bytesOf [0xF8, 0, 7, 0xE0, 0, 0x1F, 0x12, 0x34]).map (.byte true))
    q.pixel 38 4 = some 0xF800 ∧ q.pixel 39 4 = some 0x07E0 ∧ q.pixel 38 5 = some 0x001F ∧
    q.pixel 39 5 = some 0x1234 ∧ q.pixel 40 4 = none ∧ q.col = 38 ∧ q.row = 4 := by
  decide +kernel

/-- R64, U2: an inverted window has no meaning for a memory write: what the memory held is no longer known. -/
theorem test_panel_inverted :
    let p : Panel := { xs := 39, xe := 38, ys := 4, ye := 5, meaningful := true, fm := [(0, 1), (1, 2)] }
    let q := p.feed {} (.byte false 0x2C :: (bytesOf [0xF8, 0]).map (.byte true))
    q.fm = [] ∧ q.meaningful = true := by
  decide +kernel

/-- R64, D28: the last cell of the memory, one column and one row beyond it, and the Frame Window of modes 4 to 7, in a memory
of 240 columns and of 320. -/
theorem test_panel_outside :
    ({ xs := 0, xe := 240, ys := 0, ye := 0 } : Panel).windowLegal {} = false ∧
    ({ xs := 0, xe := 239, ys := 319, ye := 319 } : Panel).windowLegal {} = true ∧
    ({ xs := 0, xe := 239, ys := 319, ye := 320 } : Panel).windowLegal {} = false ∧
    ({ xs := 0, xe := 319, ys := 35, ye := 204 } : Panel).windowLegal {} = false ∧
    ({ xs := 0, xe := 319, ys := 35, ye := 204 } : Panel).windowLegal { panelCols := 320 } = true := by
  decide

/-- R64, U2: `PIXEL 250, 100` in mode 0 goes to column 285, outside the memory: it ends OK and the sink refuses. -/
theorem test_pixel_outside_memory :
    let t := after (exec (.pixel 250 100 0xF800) { State.reset with panel := { meaningful := true } })
    t.last = 0 ∧ t.settled.panel.xs = 285 ∧ t.settled.panel.pixel 285 100 = none := by
  decide +kernel

/-- R159, R64: in mode 4 a write beyond column 239 is refused, and `PIXEL 3, 4` after it paints column 3, row 39. -/
theorem test_pixel_after_refusal :
    let s : State := { State.reset.inMode 4#3 with panel := { meaningful := true } }
    let t := after (exec (.pixel 250 100 0xF800) s)
    let u := after (exec (.pixel 3 4 0x07E0) t.settled)
    t.settled.panel.pixel 250 135 = none ∧ u.settled.panel.pixel 3 39 = some 0x07E0 := by
  decide +kernel

/-- R10: the command bytes are an argument: a machine built with another memory-write byte sends it and its panel takes
it, and the default byte is then a command like any other. -/
theorem test_params :
    let s : State := { pixelProgram with params := { cmdRamwr := 0x3C }, panel := { meaningful := true } }
    let t := after (step s)
    (bare t).drop 4 = [[0, 0x3C], [1, 0xF8, 0x00]] ∧ t.settled.panel.pixel 38 4 = some 0xF800 ∧
    decodeWire t.params 0x3C = some .ramwr ∧ decodeWire t.params 0x2C = none := by
  decide +kernel

/-! ### The software around the block -/

/-- S6: the clamp of `round_box`; S8: the glyph byte 0xA5. -/
theorem test_surrounding :
    roundBoxRadius 10 6 9 = 3 ∧ packByte 0xA5 1 0 = [1, 0, 1, 0, 0, 1, 0, 1] ∧
    Pseudo.expand (.rect 2 3 4 3 0xFFFF) =
      some [.fillRect 2 3 4 1 0xFFFF, .fillRect 2 5 4 1 0xFFFF, .fillRect 2 3 1 3 0xFFFF,
        .fillRect 5 3 1 3 0xFFFF] := by
  decide +kernel

/-! ### Witnesses: for each obligation with hypotheses, a state and operands that meet all of them -/

/-- A state in mode 5 whose environment accepts two events, with a busy history. -/
def midRun : State :=
  { State.reset.inMode 5#3 with pc := 32, status := 0x0A, answers := [.accept, .accept], trace := [{ event := .bl true }] }

theorem midRun_accepting : midRun.Accepting := by
  intro a ha
  simp only [midRun, List.mem_cons, List.not_mem_nil, or_false] at ha
  rcases ha with rfl | rfl <;> rfl

/-- The default parameters, and one byte changed, tell the commands apart. -/
theorem default_distinct : (({} : Params)).Distinct := by unfold Params.Distinct; decide

theorem changed_distinct : ({ cmdRamwr := 0x3C } : Params).Distinct := by unfold Params.Distinct; decide

theorem midRun_noReset : midRun.NoReset := by unfold State.NoReset; decide

theorem midRun_frame : FrameInv midRun := by unfold FrameInv; decide

theorem witness_ResetInputRestoresRegisters : ({ midRun with resetRequest := true } : State).resetRequest = true := rfl

theorem witness_FatalIsLeftOnlyByReset :
    ({ midRun with status := 0x35 } : State).fatal = true ∧ midRun.resetRequest = false ∧ midRun.wire = [] ∧
    ({ midRun with wire := [.cut] } : State).wire = .cut :: [] := by decide

theorem witness_ReadPortWords : 10 ≤ (10#4).toNat ∧ 10 ≤ (15#4).toNat := by decide

theorem witness_InReadyWhenIdle :
    StatusInv midRun ∧ midRun.busy = false ∧
    ({ midRun with status := 0x35 } : State).fatal = true ∧
    ({ midRun with offered := some (.bl true) } : State).offered.isSome = true ∧
    (let bs := [4, 0, 0, 0, 0, 0, 0, 0, 0, 0, 0, 0, 1, 0, 0, 0]
     let s := program bs State.reset
     s.Idle ∧ s.stream.readRange s.pc 16 = some (bytesOf bs) ∧
     Desc.parse (bytesOf bs) = some ({ op := 0x04, len := 1 }, []) ∧
     s.stream.readRange (s.pc + 16) (1#32).toNat = none ∧ s.busy = false) :=
  ⟨by unfold StatusInv; decide, by decide, by decide, by decide, by unfold State.Idle; decide, by decide, rfl,
   by decide, by decide⟩

theorem witness_DecodeEncodeRoundTrip :
    ({} : Params).Distinct ∧ ({ cmdRamwr := 0x3C } : Params).Distinct ∧
    (Instr.blit 1 2 2 1 4 (bytesOf [0xF8, 0, 7, 0xE0])).wf = true ∧ (Instr.blit 5 5 0 0 0 []).wf = true ∧
    (Instr.fillRect 10 20 16 9 0x07E0).wf = true ∧ Instr.ramwr.wf = true :=
  ⟨default_distinct, changed_distinct, by decide⟩

theorem witness_UnusedFieldsAreIgnored :
    ({ op := 0x01 } : Desc).op = 0x01#8 ∧ ({ op := 0x03 } : Desc).op = 0x03#8 ∧ ({ op := 0x04 } : Desc).op = 0x04#8 ∧
    ({ op := 0x08 } : Desc).op = 0x08#8 ∧ ({ op := 0x06 } : Desc).op = 0x06#8 ∧ ({ op := 0x07 } : Desc).op = 0x07#8 ∧
    ({ op := 0x09 } : Desc).op = 0x09#8 ∧ ({ op := 0x0A, a0 := 1 } : Desc).op = 0x0A#8 ∧
    (0xFFFF#16).getLsbD 0 = ({ op := 0x0A, a0 := 1 } : Desc).a0.getLsbD 0 := by decide

theorem witness_SizeIsDecidedByOpRsvLen :
    decode (({ op := 0x04, len := 17 } : Desc).bytes ++ List.replicate 32 0) =
      .ok (.blit 0 0 0 0 17 (List.replicate 17 0), []) ∧
    decode (({ op := 0x0A, len := 17 } : Desc).bytes ++ [1]) = .ok (.backlight false, [1]) := ⟨rfl, rfl⟩

theorem witness_StepRunsTheDecodedOperation :
    pixelProgram.Idle ∧
    pixelProgram.stream.readRange pixelProgram.pc 16 =
      some (bytesOf [6, 0, 3, 0, 4, 0, 0, 0, 0, 0, 0, 0xF8, 0, 0, 0, 0]) ∧
    decode (bytesOf [6, 0, 3, 0, 4, 0, 0, 0, 0, 0, 0, 0xF8, 0, 0, 0, 0]) = .ok (.pixel 3 4 0xF800, []) :=
  ⟨by unfold State.Idle; decide, by decide, rfl⟩

theorem witness_StepExecutesTheWireCommand :
    (onWire 0x2C).resetRequest = false ∧ (onWire 0x2C).wire = .byte false 0x2C :: [] ∧
    decodeWire (onWire 0x2C).params 0x2C = some .ramwr := by decide

/-- A zero descriptor, and one with RSV = 1, in the stream of the reset state. -/
theorem witness_IllegalDescriptorIsSkipped :
    let s := program (List.replicate 16 0) State.reset
    let r := program (5 :: 1 :: List.replicate 14 0) State.reset
    (s.Idle ∧ s.busy = false ∧ s.stream.readRange s.pc 16 = some (bytesOf (List.replicate 16 0)) ∧
      decode (bytesOf (List.replicate 16 0)) = .error .illegalOp) ∧
    (r.Idle ∧ r.busy = false ∧ r.stream.readRange r.pc 16 = some (bytesOf (5 :: 1 :: List.replicate 14 0)) ∧
      decode (bytesOf (5 :: 1 :: List.replicate 14 0)) = .error .reservedNotZero) :=
  ⟨⟨by unfold State.Idle; decide, by decide, by decide, rfl⟩, ⟨by unfold State.Idle; decide, by decide, by decide, rfl⟩⟩

/-- A BLIT with LEN = 1 and no payload in the stream, before and after it is accepted. -/
theorem witness_BlitWaitsForItsPayload :
    let bs := [4, 0, 0, 0, 0, 0, 0, 0, 0, 0, 0, 0, 1, 0, 0, 0]
    let s := program bs State.reset
    s.Idle ∧ s.stream.readRange s.pc 16 = some (bytesOf bs) ∧
    Desc.parse (bytesOf bs) = some ({ op := 0x04, len := 1 }, []) ∧ s.stream.readRange (s.pc + 16) (1#32).toNat = none ∧
    s.busy = false ∧ (accept s).Idle ∧ (accept s).busy = true :=
  ⟨by unfold State.Idle; decide, by decide, rfl, by decide, by decide, by unfold State.Idle; decide, by decide⟩

theorem witness_PanelReceivesTheWholeWire : (onWire 0x2C).resetRequest = false := rfl

/-- Modes 0 and 7, the ends of the valid range. -/
theorem witness_InitBringsThePanelUp :
    midRun.Accepting ∧ (0 ≤ (0#16).toInt ∧ (0#16).toInt ≤ 7) ∧ 0 ≤ (7#16).toInt ∧ (7#16).toInt ≤ 7 :=
  ⟨midRun_accepting, by decide⟩

theorem witness_SetModeReprogramsTheFrame :
    midRun.Accepting ∧ (0 ≤ (0#16).toInt ∧ (0#16).toInt ≤ 7) ∧ 0 ≤ (7#16).toInt ∧ (7#16).toInt ≤ 7 :=
  ⟨midRun_accepting, by decide⟩

/-- Modes 8 and -1, the nearest invalid ones. -/
theorem witness_InvalidModeIsSkipped : 7 < (8#16).toInt ∧ (0xFFFF#16).toInt < 0 := by decide

theorem witness_SetWindowProgramsTheWindow : midRun.Accepting := midRun_accepting

theorem witness_BlitStreamsThePayload :
    midRun.Accepting ∧ (4#32).toNat = (2#16).toNat * (1#16).toNat * 2 ∧ (0#32).toNat = (0#16).toNat * (9#16).toNat * 2 :=
  ⟨midRun_accepting, by decide⟩

theorem witness_BlitLengthMismatchIsSkipped : (3#32).toNat ≠ (2#16).toNat * (1#16).toNat * 2 := by decide

theorem witness_FillRectStreamsTheColour : midRun.Accepting := midRun_accepting

theorem witness_PixelWritesOnePixel : midRun.Accepting := midRun_accepting

theorem witness_ClearFillsTheFrameWindow : midRun.Accepting := midRun_accepting

theorem witness_LinePlotsItsPoints : midRun.Accepting := midRun_accepting

theorem witness_CirclePlotsItsPoints : midRun.Accepting := midRun_accepting

theorem witness_BacklightDrivesTheLine :
    midRun.Accepting ∧ ({ midRun with answers := [.fail] } : State).answers = .fail :: [] := ⟨midRun_accepting, rfl⟩

theorem witness_WireCommandsBecomeCurrent :
    let c := midRun.params
    (Instr.colmod, 0x3A#8) ∈ [(Instr.slpout, c.cmdSlpout), (.noron, c.cmdNoron), (.invoff, c.cmdInvoff),
      (.invon, c.cmdInvon), (.dispoff, c.cmdDispoff), (.dispon, c.cmdDispon), (.caset, c.cmdCaset), (.raset, c.cmdRaset),
      (.vscrdef, c.cmdVscrdef), (.madctl, c.cmdMadctl), (.vscrsadd, c.cmdVscrsadd), (.colmod, c.cmdColmod)] := by
  decide

theorem witness_DrawingFrame :
    midRun.NoReset ∧ (facing 1 .fail midRun).NoReset ∧ ∃ x y c, Instr.pixel 3 4 0xF800 = .pixel x y c :=
  ⟨midRun_noReset, by unfold State.NoReset; decide, _, _, _, rfl⟩

theorem witness_TbufBelongsToTheFills : midRun.NoReset ∧ ∃ on, Instr.backlight true = .backlight on :=
  ⟨midRun_noReset, _, rfl⟩

theorem witness_ControlFrame : midRun.NoReset := midRun_noReset

/-- The command byte of a window set accepted, its column data failed. -/
theorem witness_PrefixOfThePseudocode :
    let s := facing 1 .fail State.reset
    let u := { State.reset with trace := [{ event := .xfer false [0x2A] }], wire := [.byte false 0x2A] }
    runScript (cmd 0x2A) { s with answers := [] } = .go u ∧
    (Stmt.columns 3 4).event u = some (.xfer true [0x00, 0x26, 0x00, 0x27]) ∧
    (Event.xfer true [0x00, 0x26, 0x00, 0x27]).canFail = true ∧
    s.answers = List.replicate (u.trace.length - s.trace.length) .accept ++ .fail :: [] :=
  ⟨rfl, by decide, rfl, rfl⟩

/-- PIXEL 3, 4, 0xF800, its last event not accepted: the six events of an accepting run, and the answers. -/
def pixelEvents34 : List Event := pixelEvents {} 35 0 3 4 0xF800

theorem pixel34_accepted (a : Answer) :
    ∃ u, exec (.pixel 3 4 0xF800) { facing 5 a State.reset with answers := [] } = .next u ∧
      u.trace = State.reset.trace ++ accepted pixelEvents34 := by
  cases a <;> exact ⟨_, rfl, by decide⟩

theorem witness_TransportFailureStopsTheOperation :
    (Instr.pixel 3 4 0xF800).format = .desc128 ∧ pixelEvents34[5]? = some (.xfer true [0xF8, 0x00]) ∧
    (Event.xfer true [0xF8, 0x00]).canFail = true ∧
    (facing 5 .fail State.reset).answers = List.replicate 5 .accept ++ .fail :: [] ∧
    ∃ u, exec (.pixel 3 4 0xF800) { facing 5 .fail State.reset with answers := [] } = .next u ∧
      u.trace = State.reset.trace ++ accepted pixelEvents34 :=
  ⟨rfl, by decide, rfl, rfl, pixel34_accepted .fail⟩

theorem witness_StalledEventHangsTheSequencer :
    (Instr.pixel 3 4 0xF800).format = .desc128 ∧ (facing 5 .stall State.reset).fatal = false ∧
    (facing 5 .stall State.reset).resetRequest = false ∧ pixelEvents34[5]? = some (.xfer true [0xF8, 0x00]) ∧
    (facing 5 .stall State.reset).answers = List.replicate 5 .accept ++ .stall :: [] ∧
    ∃ u, exec (.pixel 3 4 0xF800) { facing 5 .stall State.reset with answers := [] } = .next u ∧
      u.trace = State.reset.trace ++ accepted pixelEvents34 :=
  ⟨rfl, rfl, rfl, by decide, rfl, pixel34_accepted .stall⟩

theorem witness_ResetAbandonsTheOperation :
    (Instr.pixel 3 4 0xF800).format = .desc128 ∧ pixelEvents34[5]? = some (.xfer true [0xF8, 0x00]) ∧
    (facing 5 .reset State.reset).answers = List.replicate 5 .accept ++ .reset :: [] ∧
    ∃ u, exec (.pixel 3 4 0xF800) { facing 5 .reset State.reset with answers := [] } = .next u ∧
      u.trace = State.reset.trace ++ accepted pixelEvents34 :=
  ⟨rfl, by decide, rfl, pixel34_accepted .reset⟩

/-- The far corner of the Frame Window of mode 5. -/
theorem witness_TranslationInsideTheFrame :
    FrameInv midRun ∧ (0 : Int) ≤ 319 ∧ (319 : Int) < midRun.fw.toNat ∧ (0 : Int) ≤ 169 ∧ (169 : Int) < midRun.fh.toNat :=
  ⟨midRun_frame, by decide⟩

theorem witness_FillIsChunkedExactly : 288 % 2 = 0 ∧ 512 % 2 = 0 ∧ 0 % 2 = 0 := by decide

/-- Vectors V-F6 and V-F7: no width, and the end column that wraps. -/
theorem witness_EmptyRegionSendsNoData :
    State.reset.Accepting ∧ (0#16).toNat * (5#16).toNat = 0 ∧ (0xFFDD#16).toInt + State.reset.ox.toNat = 0 ∧
    (7#16).toNat * (0#16).toNat = 0 := ⟨by unfold State.Accepting; decide, by decide⟩

/-- A point of a flat line and a point of a steep one, both drawn from the lower end. -/
theorem witness_LineCountAndDirection :
    (linePoints 2 1 0 0)[1]? = some (1, 0) ∧ |(0 : Int) - 1| ≤ |(0 : Int) - 2| ∧
    (linePoints 1 2 0 0)[2]? = some (1, 2) ∧ |(0 : Int) - 1| < |(0 : Int) - 2| := by decide +kernel

theorem witness_LineJoinsItsEnds : ((1 : Int), (0 : Int)) ∈ linePoints 0 0 2 1 := by decide +kernel

theorem witness_LineHugsTheIdealLine : ((1 : Int), (0 : Int)) ∈ linePoints 0 0 2 1 := by decide +kernel

theorem witness_CircleLoopRunsToItsEnd :
    5 ≤ 9 ∧ ((13 : Int), (14 : Int)) ∈ circlePoints 10 10 5 ∧ ((10 : Int), (10 : Int)) ∈ circlePoints 10 10 0 ∧ 0 < 5 := by
  decide +kernel

/-- The running y of the turns of radius 5 and of radius 1 (43_rasterizer R174, the worked `CIRCLE 10, 10, 1`), and a
turn's index in range. -/
theorem witness_CircleLoopRunsToItsEnd_turns :
    (circlePoints 10 10 5).drop 4 =
      ([5, 5, 4, 3] : List Nat).zipIdx.flatMap (fun t => octantPoints 10 10 (t.2 + 1) t.1) ∧
    (circlePoints 10 10 1).drop 4 = ([0] : List Nat).zipIdx.flatMap (fun t => octantPoints 10 10 (t.2 + 1) t.1) ∧
    (5 :: [5, 5, 4, 3] : List Nat)[4]? = some 3 := by decide +kernel

theorem witness_CircleIsSymmetric : ((13 : Int), (14 : Int)) ∈ circlePoints 10 10 5 := by decide +kernel

/-- A window of two columns and three rows. -/
def smallWindow : Panel := { xs := 38, xe := 39, ys := 4, ye := 6, meaningful := true }

theorem witness_AddressCommandsLoadTheWindow : ({} : Params).Distinct := default_distinct

/-- The clauses of a refusal: an inverted window, one column beyond the memory, a fifth address byte, data for display on
and for no command. -/
theorem witness_MemoryWritePaintsTheWindow_refusals :
    ({} : Params).Distinct ∧
    (let p : Panel := { cmd := some 0x2C, half := some 1, xs := 39, xe := 38, ys := 4, ye := 5 }
     p.cmd = some (({} : Params)).cmdRamwr ∧ p.half ≠ none ∧ p.xe.toNat < p.xs.toNat) ∧
    (let p : Panel := { cmd := some 0x2C, half := some 1, xs := 0, xe := 240, ys := 0, ye := 34 }
     p.cmd = some (({} : Params)).cmdRamwr ∧ p.half ≠ none ∧ ({} : Params).panelCols ≤ p.xe.toNat) ∧
    (let p : Panel := { cmd := some 0x2A, args := [0, 1, 0, 2] }
     p.cmd = some (({} : Params)).cmdCaset ∧ 4 ≤ p.args.length) ∧
    (∀ c ∈ [(({} : Params)).cmdCaset, (({} : Params)).cmdRaset, (({} : Params)).cmdRamwr, (({} : Params)).cmdMadctl,
      (({} : Params)).cmdColmod], some 0x29#8 ≠ some c ∧ none ≠ some c) ∧
    WireItem.byte false (({} : Params)).cmdSwreset ∉ [WireItem.byte false 0x2C, .cut] :=
  ⟨default_distinct, by decide, by decide, by decide, by decide, by decide⟩

theorem witness_MemoryWritePaintsTheWindow :
    ({} : Params).Distinct ∧ smallWindow.meaningful = true ∧ smallWindow.windowLegal {} = true ∧
    smallWindow.xe.toNat = smallWindow.xs.toNat + 2 - 1 ∧ smallWindow.ye.toNat = smallWindow.ys.toNat + 3 - 1 ∧
    0 < 2 ∧ 0 < 3 ∧ ([1, 2, 3, 4, 5, 6] : List Half).length = 2 * 3 ∧ 1 < 2 ∧ 2 < 3 ∧
    ¬ (smallWindow.xs.toNat ≤ (40#16).toNat ∧ (40#16).toNat ≤ smallWindow.xe.toNat ∧
      smallWindow.ys.toNat ≤ (4#16).toNat ∧ (4#16).toNat ≤ smallWindow.ye.toNat) :=
  ⟨default_distinct, by decide⟩

/-- `midRun` with a panel that has a meaning. -/
def painting : State := { midRun with panel := somePanel }

theorem painting_accepting : painting.Accepting := midRun_accepting

/-- The same in mode 0, whose Frame Window lies inside the default memory. -/
def paintingLow : State := { painting with mode := 0, ox := 35, fw := 170, oy := 0, fh := 320 }

/-- Rectangles at the edge of the default memory in mode 5: column 239 is its last, 240 is outside. The whole Frame Window
is inside it in mode 0 and not in mode 5, where a memory of 320 columns holds it. -/
theorem witness_CornerInMemory :
    CornerInMemory painting ((238#16).toInt + (2#16).toNat - 1) ((167#16).toInt + (3#16).toNat - 1) ∧
    ¬ CornerInMemory painting ((239#16).toInt + (2#16).toNat - 1) ((167#16).toInt + (3#16).toNat - 1) ∧
    CornerInMemory painting (239#16).toInt (169#16).toInt ∧ ¬ CornerInMemory painting (240#16).toInt (169#16).toInt ∧
    Contract painting (239#16).toInt (169#16).toInt (239#16).toInt (169#16).toInt ∧
    CornerInMemory paintingLow (paintingLow.fw.toNat - 1) (paintingLow.fh.toNat - 1) ∧
    ¬ CornerInMemory painting (painting.fw.toNat - 1) (painting.fh.toNat - 1) ∧
    CornerInMemory { painting with params := { panelCols := 320 } } (painting.fw.toNat - 1) (painting.fh.toNat - 1) ∧
    FrameInv paintingLow := by
  unfold CornerInMemory Contract FrameInv; decide

/-- A rectangle in the frame of mode 5 that ends at the last column of the default memory, and one a column further. -/
theorem witness_FillRectAndClearPaintTheirRectangles :
    painting.params.Distinct ∧ painting.Accepting ∧ FrameInv painting ∧ painting.wire = [] ∧ painting.panel.meaningful = true ∧
    0 < (2#16).toNat ∧ 0 < (3#16).toNat ∧
    Contract painting (238#16).toInt (167#16).toInt ((238#16).toInt + (2#16).toNat - 1)
      ((167#16).toInt + (3#16).toNat - 1) ∧
    Contract painting (239#16).toInt (167#16).toInt ((239#16).toInt + (2#16).toNat - 1)
      ((167#16).toInt + (3#16).toNat - 1) :=
  ⟨default_distinct, painting_accepting, midRun_frame, rfl, rfl, by decide, by decide, by unfold Contract; decide⟩

theorem witness_BlitPaintsItsPayload :
    painting.params.Distinct ∧ painting.Accepting ∧ FrameInv painting ∧ painting.wire = [] ∧ painting.panel.meaningful = true ∧
    0 < (2#16).toNat ∧ 0 < (1#16).toNat ∧
    Contract painting (238#16).toInt (169#16).toInt ((238#16).toInt + (2#16).toNat - 1)
      ((169#16).toInt + (1#16).toNat - 1) ∧
    CornerInMemory painting ((238#16).toInt + (2#16).toNat - 1) ((169#16).toInt + (1#16).toNat - 1) ∧
    (4#32).toNat = (2#16).toNat * (1#16).toNat * 2 ∧ (bytesOf [0xF8, 0, 7, 0xE0]).length = (4#32).toNat ∧
    1 < (2#16).toNat ∧ 0 < (1#16).toNat ∧ (bytesOf [0xF8, 0, 7, 0xE0])[2 * (0 * (2#16).toNat + 1)]? = some 0x07 ∧
    (bytesOf [0xF8, 0, 7, 0xE0])[2 * (0 * (2#16).toNat + 1) + 1]? = some 0xE0 ∧
    ¬ ((238#16).toInt + painting.ox.toNat ≤ (237#16).toNat) :=
  ⟨default_distinct, painting_accepting, midRun_frame, rfl, rfl, by decide, by decide, by unfold Contract; decide,
    by unfold CornerInMemory; decide, by decide⟩

theorem witness_PixelPaintsItsPixel :
    painting.params.Distinct ∧ painting.Accepting ∧ FrameInv painting ∧ painting.wire = [] ∧ painting.panel.meaningful = true ∧
    Contract painting (319#16).toInt (169#16).toInt (319#16).toInt (169#16).toInt :=
  ⟨default_distinct, painting_accepting, midRun_frame, rfl, rfl, by unfold Contract; decide⟩

theorem witness_InitLeavesTheFrameBlack :
    midRun.params.Distinct ∧ midRun.Accepting ∧ (0 ≤ (0#16).toInt ∧ (0#16).toInt ≤ 7) ∧ 0 ≤ (7#16).toInt ∧ (7#16).toInt ≤ 7 :=
  ⟨default_distinct, midRun_accepting, by decide⟩

/-- A step to a next state from a state that meets every invariant. -/
theorem pixelProgram_step : step pixelProgram = .next (after (step pixelProgram)) :=
  next_after _ (by decide +kernel)

theorem witness_StepKeepsTheFrameOfMode : FrameInv pixelProgram ∧ ∃ t, step pixelProgram = .next t :=
  ⟨by unfold FrameInv; decide, _, pixelProgram_step⟩

theorem witness_StepKeepsStatusLegal : StatusInv pixelProgram ∧ ∃ t, step pixelProgram = .next t :=
  ⟨by unfold StatusInv; decide, _, pixelProgram_step⟩

theorem witness_StepKeepsPcAligned : PcInv pixelProgram ∧ ∃ t, step pixelProgram = .next t :=
  ⟨by unfold PcInv; decide, _, pixelProgram_step⟩

theorem witness_StepKeepsMemoriesCanonical : MemoryInv pixelProgram ∧ ∃ t, step pixelProgram = .next t :=
  ⟨by unfold MemoryInv; decide, _, pixelProgram_step⟩

theorem witness_StepKeepsTheTraceLegal : TraceInv pixelProgram ∧ ∃ t, step pixelProgram = .next t :=
  ⟨fun e h => absurd (show e ∈ [] from h) (by simp), _, pixelProgram_step⟩

theorem witness_OperationsReadNoPanelNoStatusNoStaleTbuf : (Instr.fillRect 10 20 16 9 0x07E0).format = .desc128 := rfl

/-- RECT at the last row that fits, and one row beyond it. -/
theorem witness_PseudoInstructionExpansions :
    ((32767#16).toInt + (1#16).toNat - 1 ≤ 32767 ∧ (2#16).toInt + (4#16).toNat - 1 ≤ 32767 ∧
      -32768 ≤ (32767#16).toInt + (1#16).toNat - 1 ∧ -32768 ≤ (2#16).toInt + (4#16).toNat - 1) ∧
    ¬ ((32767#16).toInt + (2#16).toNat - 1 ≤ 32767) ∧ ¬ (-32768 ≤ (0x8000#16).toInt + (0#16).toNat - 1) := by
  decide

theorem witness_GlyphPackerRoundTrip : 7 < 8 := by decide

end Sys2Proof.Tests
end

/-! The rules about STATUS, `pc`, the Frame Window and TBUF that the invariants and frames of 10_state rest on:
what each way an operation can go on or end does to them, said once. -/

namespace Sys2Proof.Machine

/-! ### Reading STATUS after each of the things an operation does (10_state R26) -/

@[simp] theorem getElem_putBit (k j : Nat) (b : Bool) (v : Byte) (hk : k < 8) (hj : j < 8) :
    (putBit k b v)[j] = if j = k then b else v[j] := by
  simpa only [BitVec.getLsbD_eq_getElem hj] using getLsbD_putBit k j b v hk

@[simp] theorem getElem_putLast (c : BitVec 3) (j : Nat) (v : Byte) (hj : j < 8) :
    (putLast c v)[j] = if 4 ≤ j ∧ j < 7 then c.getLsbD (j - 4) else v[j] := by
  simpa only [BitVec.getLsbD_eq_getElem hj] using getLsbD_putLast c j v

section
variable (s : State)

@[simp] theorem accept_busy : (accept s).busy = true := by simp [State.busy]
@[simp] theorem accept_fatal : (accept s).fatal = s.fatal := by simp [State.fatal]
@[simp] theorem accept_last : (accept s).last = s.last := by simp [State.last]

@[simp] theorem setDiagMode_fatal (b : Bool) : (s.setDiagMode b).fatal = s.fatal := by
  simp [State.fatal, State.setDiagMode]

@[simp] theorem ended_busy (c : StatusCode) (n : Nat) : (s.ended c n).busy = false := by
  simp [State.busy, endStatus]
@[simp] theorem ended_fatal (c : StatusCode) (n : Nat) : (s.ended c n).fatal = s.fatal := by
  simp [State.fatal, endStatus]
@[simp] theorem ended_last (c : StatusCode) (n : Nat) : (s.ended c n).last = c.bits := by
  simp [State.last, endStatus]

@[simp] theorem stallOn_busy (e : Event) : (stallOn e s).busy = s.busy := rfl
@[simp] theorem stallOn_fatal (e : Event) : (stallOn e s).fatal = s.fatal := rfl
@[simp] theorem stallOn_last (e : Event) : (stallOn e s).last = s.last := rfl

@[simp] theorem failTransport_busy (e : Event) : (failTransport e s).busy = s.busy := by
  simp [State.busy]
@[simp] theorem failTransport_fatal (e : Event) : (failTransport e s).fatal = true := by
  simp [State.fatal]
@[simp] theorem failTransport_last (e : Event) : (failTransport e s).last = 3#3 := by simp [State.last]

variable (ms : List Stmt) (m : Stmt) (rest : List Answer)

@[simp] theorem stoppedAt_busy : (stoppedAt ms m rest s).busy = true := by simp [State.busy]
@[simp] theorem stoppedAt_fatal : (stoppedAt ms m rest s).fatal = s.fatal :=
  (accept_fatal _).trans (scriptWrites_fatal (ms ++ [m]) s)
@[simp] theorem stoppedAt_last : (stoppedAt ms m rest s).last = s.last :=
  (accept_last _).trans (scriptWrites_last (ms ++ [m]) s)

end

/-- The register writes of a script leave every bit of STATUS but INIT_DONE alone. -/
theorem scriptWrites_status_bit (k : Nat) (hk : k ≠ 1) (ms : List Stmt) (s : State) :
    (scriptWrites ms s).status.getLsbD k = s.status.getLsbD k :=
  scriptWrites_keeps (fun u => u.status.getLsbD k) (write_status_bit k hk) ms s

/-! ### Legal STATUS of a sequencer that has not failed and has no event on the port -/

/-- What a sequencer that is free to fetch has in STATUS, and keeps while its operation runs: bit 7 is 0 and no
transport failure is recorded; nothing waits on the event port. -/
def State.Unhindered (s : State) : Prop :=
  s.status[7] = false ∧ s.last.toNat ≤ 4 ∧ s.last ≠ 3#3 ∧ s.fatal = false ∧ s.offered = none

theorem StatusInv.unhindered {s : State} (h : StatusInv s) (hf : s.fatal = false) (ho : s.offered = none) :
    s.Unhindered := by
  obtain ⟨h7, hlast, hiff, -, -⟩ := h
  exact ⟨h7, hlast, fun h3 => absurd (hiff.2 h3) (by simp [hf]), hf, ho⟩

theorem State.Unhindered.statusInv {s : State} (h : s.Unhindered) : StatusInv s := by
  obtain ⟨h7, hlast, h3, hf, ho⟩ := h
  simp [StatusInv, h7, hlast, h3, hf, ho]

theorem statusInv_blockReset (s : State) : StatusInv (blockReset s) := by
  simp [StatusInv, State.last, State.fatal]

theorem State.Unhindered.accept {s : State} (h : s.Unhindered) : (accept s).Unhindered := by
  obtain ⟨h7, hlast, h3, hf, ho⟩ := h
  refine ⟨?_, by simpa using hlast, by simpa using h3, by simpa using hf, ho⟩
  simpa using h7

theorem State.Unhindered.scriptWrites {s : State} (h : s.Unhindered) (ms : List Stmt) :
    (scriptWrites ms s).Unhindered := by
  obtain ⟨h7, hlast, h3, hf, ho⟩ := h
  refine ⟨?_, by simpa using hlast, by simpa using h3, by simpa using hf, by simpa using ho⟩
  rwa [← BitVec.getLsbD_eq_getElem, scriptWrites_status_bit 7 (by decide)]

/-- Every code but TRANSPORT_FAIL ends an operation with a legal STATUS: it is at most 4 and not 3. -/
theorem State.Unhindered.ended {s : State} (h : s.Unhindered) (c : StatusCode) (n : Nat) (hc : c ≠ .transportFail) :
    (s.ended c n).Unhindered := by
  obtain ⟨h7, -, -, hf, ho⟩ := h
  refine ⟨?_, ?_, ?_, by simpa using hf, ho⟩
  · simpa [endStatus] using h7
  · rw [ended_last]; cases c <;> decide
  · rw [ended_last]
    cases c with
    | transportFail => exact absurd rfl hc
    | _ => decide

theorem State.Unhindered.setDiagMode {s : State} (h : s.Unhindered) : (s.setDiagMode true).Unhindered := by
  obtain ⟨h7, hlast, h3, hf, ho⟩ := h
  refine ⟨?_, ?_, ?_, by simpa using hf, ho⟩
  · simpa [State.setDiagMode] using h7
  · simpa [State.last, State.setDiagMode] using hlast
  · simpa [State.last, State.setDiagMode] using h3

theorem State.Unhindered.rejected {s : State} (h : s.Unhindered) (i : Instr) : (rejected i s).Unhindered := by
  unfold Machine.rejected
  split
  · exact h.ended _ _ (by decide)
  · exact h.setDiagMode.ended _ _ (by decide)

theorem State.Unhindered.stoppedAt {s : State} (h : s.Unhindered) (ms : List Stmt) (m : Stmt) (rest : List Answer) :
    (stoppedAt ms m rest s).Unhindered :=
  (h.scriptWrites (ms ++ [m])).accept

/-- A stalled event waits on the port of a busy sequencer that has not failed (40_transport R111 b). -/
theorem State.Unhindered.statusInv_stallOn {s : State} (h : s.Unhindered) (hb : s.busy = true) (e : Event) :
    StatusInv (stallOn e s) := by
  obtain ⟨h7, hlast, h3, hf, -⟩ := h
  simp [StatusInv, h7, hlast, h3, hf, hb]

/-- A failed event leaves LAST 3, FATAL and BUSY together, and nothing on the port (60_exceptions R224). -/
theorem State.Unhindered.statusInv_failTransport {s : State} (h : s.Unhindered) (hb : s.busy = true) (e : Event) :
    StatusInv (failTransport e s) := by
  obtain ⟨h7, -, -, -, ho⟩ := h
  simp [StatusInv, h7, hb, ho]

/-- Whatever the environment answers, an operation of an unhindered sequencer leaves a legal STATUS. -/
theorem State.Unhindered.statusInv_exec {s t : State} (h : s.Unhindered) (i : Instr) (hi : i.format = .desc128)
    (he : exec i s = .next t) : StatusInv t := by
  rcases exec_desc_cases i s t hi he with
    ⟨ms, -, rfl⟩ | ⟨ms, m, -, e, -, rest, -, -, -, ⟨-, rfl⟩ | ⟨-, -, rfl⟩ | ⟨-, rfl⟩⟩ | ⟨-, rfl⟩
  · exact State.Unhindered.statusInv ((h.scriptWrites ms).ended .ok i.size (by decide))
  · exact (h.stoppedAt ms m rest).statusInv_stallOn (stoppedAt_busy ..) e
  · exact (h.stoppedAt ms m rest).statusInv_failTransport (stoppedAt_busy ..) e
  · exact statusInv_blockReset _
  · exact (h.rejected i).statusInv

/-! ### Where an operation leaves `pc` -/

theorem rejected_pc (i : Instr) (s : State) (hi : i.format = .desc128) (h : script i s = none) :
    (rejected i s).pc = s.pc + i.size := by
  cases i with
  | init | setMode | blit => rfl
  | setWindow | fillRect | pixel | clear | line | circle | backlight => cases h
  | _ => cases hi

/-- An operation moves `pc` over its own stream bytes, leaves it where it was, or is met by the reset input
(10_state R21, 30_encoding R84, 60_exceptions R224, 70_reset R255). -/
theorem exec_pc {s t : State} (i : Instr) (hi : i.format = .desc128) (he : exec i s = .next t) :
    t.pc = s.pc + i.size ∨ t.pc = s.pc ∨ t.pc = 0 := by
  rcases exec_desc_cases i s t hi he with
    ⟨ms, -, rfl⟩ | ⟨ms, m, -, e, -, rest, -, -, -, ⟨-, rfl⟩ | ⟨-, -, rfl⟩ | ⟨-, rfl⟩⟩ | ⟨hs, rfl⟩
  · simp
  · simp
  · simp
  · simp
  · exact .inl (rejected_pc i s hi hs)

/-! ### The Frame Window registers and MODE are written together -/

theorem frameInv_blockReset (s : State) : FrameInv (blockReset s) := rfl

theorem frameInv_write {s : State} (h : FrameInv s) (m : Stmt) : FrameInv (m.write s) := by
  cases m with
  | writeFrame => rfl
  | _ => exact h

theorem frameInv_scriptWrites {s : State} (h : FrameInv s) (ms : List Stmt) : FrameInv (scriptWrites ms s) := by
  induction ms generalizing s with
  | nil => exact h
  | cons m ms ih => exact ih (frameInv_write h m)

@[simp] theorem frameInv_emitted (es : List Event) (s : State) : FrameInv (s.emitted es) ↔ FrameInv s := Iff.rfl

@[simp] theorem frameInv_ended (c : StatusCode) (n : Nat) (s : State) : FrameInv (s.ended c n) ↔ FrameInv s := Iff.rfl

@[simp] theorem frameInv_setDiagMode (b : Bool) (s : State) : FrameInv (s.setDiagMode b) ↔ FrameInv s := Iff.rfl

@[simp] theorem frameInv_stallOn (e : Event) (s : State) : FrameInv (stallOn e s) ↔ FrameInv s := Iff.rfl

@[simp] theorem frameInv_failTransport (e : Event) (s : State) : FrameInv (failTransport e s) ↔ FrameInv s := Iff.rfl

theorem frameInv_stoppedAt {s : State} (h : FrameInv s) (ms : List Stmt) (m : Stmt) (rest : List Answer) :
    FrameInv (stoppedAt ms m rest s) := by
  have hw := frameInv_scriptWrites h (ms ++ [m])
  unfold FrameInv at hw ⊢
  exact hw

theorem frameInv_rejected {s : State} (h : FrameInv s) (i : Instr) : FrameInv (rejected i s) := by
  unfold rejected
  split <;> simpa using h

/-- Only `writeFrame` and the reset input write MODE or its frame: an operation keeps them consistent, wherever it
is given up. -/
theorem frameInv_exec {s t : State} (h : FrameInv s) (i : Instr) (hi : i.format = .desc128)
    (he : exec i s = .next t) : FrameInv t := by
  rcases exec_desc_cases i s t hi he with
    ⟨ms, -, rfl⟩ | ⟨ms, m, -, e, -, rest, -, -, -, ⟨-, rfl⟩ | ⟨-, -, rfl⟩ | ⟨-, rfl⟩⟩ | ⟨-, rfl⟩
  · simpa using frameInv_scriptWrites h ms
  · simpa using frameInv_stoppedAt h ms m rest
  · simpa using frameInv_stoppedAt h ms m rest
  · exact frameInv_blockReset _
  · exact frameInv_rejected h i

/-! ### TBUF is written by the refill alone -/

/-- Whether a statement refills TBUF (42_pixel_region R155). -/
def Stmt.refills : Stmt → Bool
  | .refill _ => true
  | _ => false

theorem write_tbuf {m : Stmt} (h : m.refills = false) (s : State) : (m.write s).tbuf = s.tbuf := by
  cases m with
  | refill => cases h
  | _ => rfl

theorem scriptWrites_tbuf {ms : List Stmt} (h : ms.any Stmt.refills = false) (s : State) :
    (scriptWrites ms s).tbuf = s.tbuf := by
  induction ms generalizing s with
  | nil => rfl
  | cons m ms ih =>
    obtain ⟨hm, hms⟩ := Bool.or_eq_false_iff.1 (List.any_cons ▸ h)
    rw [scriptWrites_cons, ih hms, write_tbuf hm]

/-- Whether an operation is one of the three that fill (42_pixel_region R155, R156, R158; 41_panel_control R140). -/
def fillsTbuf : Instr → Bool
  | .init _ | .fillRect .. | .clear _ => true
  | _ => false

theorem plot_refills (cfg : Params) (ps : List (Int × Int)) (c : Half) : (plot cfg ps c).any Stmt.refills = false := by
  rw [plot, List.any_flatMap, List.any_eq_false]
  exact fun p _ => Bool.false_ne_true

theorem blitScript_refills (cfg : Params) (x y : Int) (w h : Nat) (payload : List Byte) :
    (blitScript cfg x y w h payload).any Stmt.refills = false := by
  unfold blitScript data
  split <;> rfl

/-- The pseudocode of an operation that does not fill holds no refill. -/
theorem script_refills {i : Instr} {s : State} {ms : List Stmt} (hi : fillsTbuf i = false) (h : script i s = some ms) :
    ms.any Stmt.refills = false := by
  cases i with
  | init | fillRect | clear => cases hi
  | setMode mode =>
    obtain ⟨m, -, rfl⟩ := Option.map_eq_some_iff.1 h
    rfl
  | setWindow | pixel | backlight => cases h; rfl
  | blit =>
    simp only [script] at h
    split at h
    · cases h
    · cases h; exact blitScript_refills ..
  | line | circle => cases h; exact plot_refills ..
  | _ => cases h

@[simp] theorem rejected_tbuf (i : Instr) (s : State) : (rejected i s).tbuf = s.tbuf := by
  unfold rejected
  split <;> rfl

/-- An operation that does not fill leaves TBUF as it was, wherever it is given up short of a reset. -/
theorem exec_tbuf (i : Instr) (s : State) (hi : i.format = .desc128) (hf : fillsTbuf i = false) (hn : s.NoReset) :
    ∃ t, exec i s = .next t ∧ t.tbuf = s.tbuf := by
  refine exec_frame (fun u => u.tbuf = s.tbuf) i s hi hn (fun _ => rejected_tbuf i s)
    (fun ms h => scriptWrites_tbuf (script_refills hf h) s) (fun ms₁ m ms₂ h => scriptWrites_tbuf ?_ s)
    (fun _ _ h => h) (fun _ _ h => h) (fun _ _ _ h => h) (fun _ _ h => h) (fun _ _ h => h)
  have hall := script_refills hf h
  simp only [List.any_append, List.any_cons, List.any_nil, Bool.or_false, Bool.or_eq_false_iff] at hall ⊢
  exact ⟨hall.1, hall.2.1⟩

end Sys2Proof.Machine

/-! What an operation does not depend on. Two states that differ only in a field that no event and no control
decision reads stay so through the whole operation: proved once for a relation between states (`Blind`), then used
for the panel, STATUS and TBUF. -/

namespace Sys2Proof.Machine

/-- A relation between states that an operation cannot see and cannot break: related states have the same answers,
parameters and Frame Window, and everything an operation does takes related states to related states. -/
structure Blind (R : State → State → Prop) : Prop where
  sees : ∀ {s t}, R s t → s.answers = t.answers ∧ s.params = t.params ∧
    s.ox = t.ox ∧ s.fw = t.fw ∧ s.oy = t.oy ∧ s.fh = t.fh
  accept : ∀ {s t}, R s t → R (accept s) (accept t)
  setDiagMode : ∀ {s t}, R s t → R (s.setDiagMode true) (t.setDiagMode true)
  write : ∀ {s t} (m : Stmt), R s t → R (m.write s) (m.write t)
  emitted : ∀ {s t} (es : List Event), R s t → R (s.emitted es) (t.emitted es)
  giveUp : ∀ {s t} (a : Answer) (e : Event) (rest : List Answer), R s t →
    R (giveUp a e { s with answers := rest }) (giveUp a e { t with answers := rest })
  endOperation : ∀ {s t} (c : StatusCode) (n : Nat), R s t → R (endOperation c n s) (endOperation c n t)

/-- Two flows that get equally far, to related states. -/
inductive Flow.Rel (R : State → State → Prop) : Flow → Flow → Prop where
  | go {s t : State} (h : R s t) : Flow.Rel R (.go s) (.go t)
  | abort {s t : State} (h : R s t) : Flow.Rel R (.abort s) (.abort t)

section
variable {R : State → State → Prop} (hR : Blind R) {s t : State}
include hR

/-- The environment accepts an event in both states, or gives up on it in both. -/
theorem Blind.emit_rel (e : Event) (h : R s t) :
    (emit e s = .go (s.emitted [e]) ∧ emit e t = .go (t.emitted [e])) ∨
    ∃ s' t', emit e s = .abort s' ∧ emit e t = .abort t' ∧ R s' t' := by
  obtain ⟨hans, -⟩ := hR.sees h
  by_cases hend : ∃ a rest, s.answers = a :: rest ∧ a.Ends e
  · obtain ⟨a, rest, hs, ha⟩ := hend
    exact .inr ⟨_, _, emit_ends a rest e s hs ha, emit_ends a rest e t (hans ▸ hs) ha, hR.giveUp a e rest h⟩
  · have hgo (u : State) (hu : u.answers = s.answers) : emit e u = .go (u.emitted [e]) :=
      (emit_cases e u).resolve_right fun ⟨a, rest, hs, ha, _⟩ => hend ⟨a, rest, hu ▸ hs, ha⟩
    exact .inl ⟨hgo s rfl, hgo t hans.symm⟩

/-- A script that offers the same events in both states takes them equally far. -/
theorem Blind.runScript_rel (ms : List Stmt) (h : R s t) (hev : scriptEvents ms s = scriptEvents ms t) :
    (runScript ms s).Rel R (runScript ms t) := by
  induction ms generalizing s t with
  | nil => exact .go h
  | cons m ms ih =>
    have hlen : (m.event s).toList.length = (m.event t).toList.length := by cases m <;> rfl
    obtain ⟨hm, hms⟩ := List.append_inj hev hlen
    have he : m.event s = m.event t := by simpa using congrArg List.head? hm
    have hw := hR.write m h
    simp only [runScript, Stmt.run, ← he]
    cases m.event s with
    | none => exact ih hw hms
    | some e =>
      rcases hR.emit_rel e hw with ⟨hs, ht⟩ | ⟨s', t', hs, ht, hrel⟩ <;> simp only [hs, ht]
      · exact ih (hR.emitted [e] hw) (by simpa using hms)
      · exact .abort hrel

theorem Blind.runOperation_rel (size : Nat) (ms : List Stmt) (h : R s t)
    (hev : scriptEvents ms s = scriptEvents ms t) : R (runOperation size ms s) (runOperation size ms t) := by
  have hrel := hR.runScript_rel ms (hR.accept h) (by simpa using hev)
  unfold runOperation
  generalize runScript ms (Machine.accept s) = f, runScript ms (Machine.accept t) = g at hrel
  cases hrel with
  | go h => exact hR.endOperation .ok size h
  | abort h => exact h

theorem Blind.ended_rel (c : StatusCode) (n : Nat) (hc : c ≠ .transportFail) (h : R s t) :
    R (s.ended c n) (t.ended c n) := by
  rw [← endOperation_accept c n s hc, ← endOperation_accept c n t hc]
  exact hR.endOperation c n (hR.accept h)

theorem Blind.rejected_rel (i : Instr) (h : R s t) : R (rejected i s) (rejected i t) := by
  unfold rejected
  split
  · exact hR.ended_rel _ _ (by decide) h
  · exact hR.ended_rel _ _ (by decide) (hR.setDiagMode h)

end

/-- The events of every operation are computed from its operands and the origin of the Frame Window alone: a fill
refills TBUF before its first chunk. -/
theorem script_events_congr {i : Instr} {u s t : State} {ms : List Stmt} (hs : script i u = some ms)
    (hx : s.ox = t.ox) (hy : s.oy = t.oy) : scriptEvents ms s = scriptEvents ms t := by
  cases i with
  | init mode | setMode mode =>
    obtain ⟨m, -, rfl⟩ := Option.map_eq_some_iff.1 hs
    simp [initScript_events]
  | blit =>
    simp only [script] at hs
    split at hs
    · cases hs
    · cases hs; simp [blitScript, hx, hy]
  | setWindow | fillRect | pixel | clear | line | circle => cases hs; simp [hx, hy]
  | backlight => cases hs; rfl
  | _ => cases hs

/-- NONINTERFERENCE of an operation: from related states it answers related next states. -/
theorem Blind.exec_rel {R : State → State → Prop} (hR : Blind R) {s t s' : State} (i : Instr)
    (hi : i.format = .desc128) (h : R s t) (hs : exec i s = .next s') : ∃ t', exec i t = .next t' ∧ R s' t' := by
  rw [exec_desc i s hi, Host.Outcome.next.injEq] at hs
  subst hs
  refine ⟨_, exec_desc i t hi, ?_⟩
  obtain ⟨-, hparams, hox, hfw, hoy, hfh⟩ := hR.sees h
  rw [← script_congr i s t hfw hfh hparams]
  cases hsc : script i s with
  | none => exact hR.rejected_rel i h
  | some ms => exact hR.runOperation_rel i.size ms h (script_events_congr hsc hox hoy)

/-! ### The three fields -/

/-- The second state has `p` for its panel and is the first in everything else. -/
def OtherPanel (p : Panel) (s t : State) : Prop := t = { s with panel := p }

/-- The states differ in STATUS at most. -/
def OtherStatus (s t : State) : Prop := ∃ v : Byte, t = { s with status := v }

/-- The states differ in TBUF at most. -/
def OtherTbuf (s t : State) : Prop := ∃ b : Vector Byte Config.tbufSize, t = { s with tbuf := b }

theorem blind_otherPanel (p : Panel) : Blind (OtherPanel p) where
  sees := by rintro s _ rfl; exact ⟨rfl, rfl, rfl, rfl, rfl, rfl⟩
  accept := by rintro s _ rfl; rfl
  setDiagMode := by rintro s _ rfl; rfl
  write := by rintro s _ m rfl; cases m <;> rfl
  emitted := by rintro s _ es rfl; rfl
  giveUp := by rintro s _ a e rest rfl; cases a <;> rfl
  endOperation := by rintro s _ c n rfl; cases c <;> rfl

theorem blind_otherStatus : Blind OtherStatus where
  sees := by rintro s _ ⟨v, rfl⟩; exact ⟨rfl, rfl, rfl, rfl, rfl, rfl⟩
  accept := by rintro s _ ⟨v, rfl⟩; exact ⟨_, rfl⟩
  setDiagMode := by rintro s _ ⟨v, rfl⟩; exact ⟨_, rfl⟩
  write := by rintro s _ m ⟨v, rfl⟩; cases m <;> exact ⟨_, rfl⟩
  emitted := by rintro s _ es ⟨v, rfl⟩; exact ⟨_, rfl⟩
  giveUp := by rintro s _ a e rest ⟨v, rfl⟩; cases a <;> exact ⟨_, rfl⟩
  endOperation := by rintro s _ c n ⟨v, rfl⟩; cases c <;> exact ⟨_, rfl⟩

theorem blind_otherTbuf : Blind OtherTbuf where
  sees := by rintro s _ ⟨b, rfl⟩; exact ⟨rfl, rfl, rfl, rfl, rfl, rfl⟩
  accept := by rintro s _ ⟨b, rfl⟩; exact ⟨_, rfl⟩
  setDiagMode := by rintro s _ ⟨b, rfl⟩; exact ⟨_, rfl⟩
  write := by rintro s _ m ⟨b, rfl⟩; cases m <;> exact ⟨_, rfl⟩
  emitted := by rintro s _ es ⟨b, rfl⟩; exact ⟨_, rfl⟩
  giveUp := by rintro s _ a e rest ⟨b, rfl⟩; cases a <;> exact ⟨_, rfl⟩
  endOperation := by rintro s _ c n ⟨b, rfl⟩; cases c <;> exact ⟨_, rfl⟩

end Sys2Proof.Machine

/-! The obligations on the state of the machine (spec 10_state), settled. -/

namespace Sys2Proof.Machine

/-! ### Every step -/

/-- Settles O54: the panel's step does not touch STATUS, the reset input clears it, and the sequencer steps only when
unhindered, in which case each way an operation can end has a legal STATUS. -/
theorem stepKeepsStatusLegal : Obligations.StepKeepsStatusLegal := by
  unfold Obligations.StepKeepsStatusLegal
  intro s t hs h
  rcases step_cases s t h with ⟨-, rfl⟩ | ⟨item, rest, -, rfl⟩ | ⟨-, hf, ho, hseq⟩
  · exact statusInv_blockReset s
  · exact hs
  · have hu := hs.unhindered hf ho
    rcases hseq with ⟨i, hi, he⟩ | rfl | rfl
    · exact hu.statusInv_exec i hi he
    · exact (hu.ended .illegalOp 16 (by decide)).statusInv
    · exact hu.accept.statusInv

/-- Settles O53: MODE and its frame are written by one statement and reset together; nothing else writes either. -/
theorem stepKeepsTheFrameOfMode : Obligations.StepKeepsTheFrameOfMode := by
  unfold Obligations.StepKeepsTheFrameOfMode
  intro s t hs h
  rcases step_cases s t h with ⟨-, rfl⟩ | ⟨item, rest, -, rfl⟩ | ⟨-, -, -, ⟨i, hi, he⟩ | rfl | rfl⟩
  · exact frameInv_blockReset s
  · exact hs
  · exact frameInv_exec hs i hi he
  · simpa using hs
  · exact hs

/-- Settles O55: `pc` stays, returns to 0, or moves over a descriptor and its payload beats, 16 bytes each. -/
theorem stepKeepsPcAligned : Obligations.StepKeepsPcAligned := by
  unfold Obligations.StepKeepsPcAligned PcInv
  intro s t hs h
  rcases step_cases s t h with ⟨-, rfl⟩ | ⟨item, rest, -, rfl⟩ | ⟨-, -, -, ⟨i, hi, he⟩ | rfl | rfl⟩
  · exact dvd_zero 16
  · exact hs
  · rcases exec_pc i hi he with hpc | hpc | hpc <;> rw [hpc]
    · exact dvd_add hs (dvd_size i hi)
    · exact hs
    · exact dvd_zero 16
  · exact dvd_add hs (dvd_refl 16)
  · exact hs

/-- Settles O52: in the reset state everything but the Frame Window is 0 or empty. -/
theorem resetMeetsTheInvariants : Obligations.ResetMeetsTheInvariants := by
  unfold Obligations.ResetMeetsTheInvariants
  refine ⟨rfl, ?_, dvd_zero 16, ⟨Mem.wf_nil, Mem.wf_nil⟩, ?_⟩
  · exact statusInv_blockReset State.reset
  · intro e he
    cases he

/-! ### What operations leave alone and do not depend on -/

/-- Settles O31: none of these operations has a refill in its pseudocode. -/
theorem tbufBelongsToTheFills : Obligations.TbufBelongsToTheFills := by
  unfold Obligations.TbufBelongsToTheFills
  intro s hn i hi
  have h : i.format = .desc128 ∧ fillsTbuf i = false := by
    rcases hi with ⟨_, _, _, _, rfl⟩ | ⟨_, _, _, _, _, _, rfl⟩ | ⟨_, _, _, rfl⟩ | ⟨_, _, _, _, _, rfl⟩ |
      ⟨_, _, _, _, rfl⟩ | ⟨_, rfl⟩ | ⟨_, rfl⟩ <;> exact ⟨rfl, rfl⟩
  exact exec_tbuf i s h.1 h.2 hn

/-- Settles O58: states that differ in the panel, in STATUS or in TBUF alone stay so through an operation. -/
theorem operationsReadNoPanelNoStatusNoStaleTbuf : Obligations.OperationsReadNoPanelNoStatusNoStaleTbuf := by
  unfold Obligations.OperationsReadNoPanelNoStatusNoStaleTbuf
  intro i s hi
  refine ⟨_, exec_desc i s hi, fun p => ?_, fun v => ?_, fun b => ?_⟩
  · obtain ⟨_, he, rfl⟩ := (blind_otherPanel p).exec_rel i hi rfl (exec_desc i s hi)
    exact he
  · obtain ⟨_, he, w, rfl⟩ := blind_otherStatus.exec_rel i hi ⟨v, rfl⟩ (exec_desc i s hi)
    exact ⟨w, he⟩
  · obtain ⟨_, he, b', rfl⟩ := blind_otherTbuf.exec_rel i hi ⟨b, rfl⟩ (exec_desc i s hi)
    exact ⟨b', he⟩

/-! ### Values and ports -/

/-- Settles O1: the defaults of the fields of `State`. -/
theorem resetRegisterValues : Obligations.ResetRegisterValues := by
  unfold Obligations.ResetRegisterValues
  exact ⟨rfl, rfl, rfl, rfl, rfl, rfl, rfl, rfl, rfl, rfl, rfl, rfl, rfl⟩

theorem readPort_of_ge (s : State) (k : BitVec 4) (hk : 10 ≤ k.toNat) : readPort s k = 0#16 := by
  unfold readPort
  split
  case h_11 => rfl
  all_goals omega

/-- Settles O4: STATUS and MODE are widened with zeros, words 2 to 9 are registers, the rest is 0. -/
theorem readPortWords : Obligations.ReadPortWords := by
  unfold Obligations.ReadPortWords
  intro s
  exact ⟨BitVec.setWidth_eq_append (by decide), BitVec.setWidth_eq_append (by decide), rfl, rfl, rfl, rfl, rfl, rfl, rfl,
    rfl, readPort_of_ge s⟩

/-- Settles O37: `frameOf` with its named constants replaced by the numbers of the rule. -/
theorem frameOfMode : Obligations.FrameOfMode := by
  unfold Obligations.FrameOfMode
  exact fun m => rfl

end Sys2Proof.Machine

/-! The rules of the memories (spec 20_memory): the translation inside the frame, the panel's step, what an operation
leaves of the memories, and what the panel makes of an address command, of a memory write and of a refused byte. -/

namespace Sys2Proof.Machine

/-! ### The translation inside the Frame Window (R58, R60) -/

theorem toNat_u16 {v : Int} (h0 : 0 ≤ v) (h1 : v < 65536) : ((u16 v).toNat : Int) = v := by
  simp only [u16, BitVec.toNat_ofInt]
  omega

/-- In every mode the Frame Window ends at or before column 320 and row 320 (10_state R24). -/
theorem FrameInv.end_le {s : State} (h : FrameInv s) :
    s.ox.toNat + s.fw.toNat ≤ 320 ∧ s.oy.toNat + s.fh.toNat ≤ 320 := by
  unfold FrameInv frameOf at h
  split at h <;> (obtain ⟨hox, hfw, hoy, hfh⟩ := Frame.mk.inj h; rw [hox, hfw, hoy, hfh]; decide)

/-! ### The panel's step -/

/-- With something on the wire and no reset request, the step is the panel's (log entry 8). -/
theorem step_receive {s : State} {item : WireItem} {rest : List WireItem} (hr : s.resetRequest = false)
    (hw : s.wire = item :: rest) : step s = receive item { s with wire := rest } := by
  simp [step, hr, hw]

theorem settled_of_wire_nil {s : State} (h : s.wire = []) : s.settled = s := by
  cases s
  cases h
  rfl

/-- Receiving the first item does not change what the panel is once it has received them all. -/
theorem settled_of_wire_cons {s : State} {item : WireItem} {rest : List WireItem} (h : s.wire = item :: rest) :
    ({ s with wire := rest, panel := s.panel.receive s.params item } : State).settled = s.settled := by
  simp [State.settled, h]

/-- As many steps as the wire has items bring the panel up to date. -/
theorem run_wire (items : List WireItem) {s : State} (hr : s.resetRequest = false) (hw : s.wire = items) :
    Host.Core.run Sys2Proof.core items.length s = .next s.settled := by
  induction items generalizing s with
  | nil => rw [settled_of_wire_nil hw]; rfl
  | cons item rest ih =>
    have hstep : step s = .next { s with wire := rest, panel := s.panel.receive s.params item } := by
      rw [step_receive hr hw, receive_eq]; rfl
    have hrun : Host.Core.run Sys2Proof.core (item :: rest).length s =
        Host.Core.run Sys2Proof.core rest.length { s with wire := rest, panel := s.panel.receive s.params item } := by
      simp only [List.length_cons, Host.Core.run, Sys2Proof.core, hstep]
    rw [hrun, ← settled_of_wire_cons hw]
    exact ih hr rfl

/-! ### What an operation leaves of the memories -/

/-- No operation writes the descriptor stream, the parameters or the panel, wherever it is given up, the reset input
included (R72; the panel receives in steps of its own: log entry 8). -/
theorem exec_memories {s t : State} (i : Instr) (hi : i.format = .desc128) (he : exec i s = .next t) :
    t.stream = s.stream ∧ t.params = s.params ∧ t.panel = s.panel := by
  rcases exec_desc_cases i s t hi he with
    ⟨ms, -, rfl⟩ | ⟨ms, m, -, e, -, rest, -, -, -, ⟨-, rfl⟩ | ⟨-, -, rfl⟩ | ⟨-, rfl⟩⟩ | ⟨-, rfl⟩
  · simp
  · simp
  · simp
  · simp
  · unfold rejected
    split <;> simp

/-! ### Address commands (R63, R64) -/

/-- A command byte without an effect of its own only becomes the current command. -/
theorem Panel.receive_command {cfg : Params} {c : Byte} (h1 : c ≠ cfg.cmdSwreset) (h2 : c ≠ cfg.cmdRamwr) (p : Panel) :
    p.receive cfg (.byte false c) = p.command c := by
  simp [Panel.receive, h1, h2]

theorem Panel.receive_ramwr {cfg : Params} (hd : cfg.Distinct) (p : Panel) :
    p.receive cfg (.byte false cfg.cmdRamwr) = (p.command cfg.cmdRamwr).startWrite := by
  simp [Panel.receive, hd.ramwr_ne_swreset]

/-- The four data bytes of an address command `c`, collected and loaded with the fourth. -/
theorem Panel.feed_address {cfg : Params} {c : Byte} {load : Half → Half → Panel → Panel}
    (hc : ∀ b (q : Panel), q.cmd = some c → q.data cfg b = q.addressByte load b) (p : Panel) (a b : Half) :
    (p.command c).feed cfg ((be16 a ++ be16 b).map (WireItem.byte true)) =
      load a b { p.command c with args := be16 a ++ be16 b } := by
  simp [be16, Panel.receive, hc, Panel.command, Panel.addressByte]

/-! ### Bytes the sink refuses (R64, U1 to U3) -/

theorem Panel.pixel_of_meaningless {p : Panel} (h : p.meaningful = false) (col row : Half) : p.pixel col row = none := by
  simp [Panel.pixel, h]

theorem Panel.pixel_of_fm_nil {p : Panel} (h : p.fm = []) (col row : Half) : p.pixel col row = none := by
  simp [Panel.pixel, h]

theorem Panel.windowLegal_eq_false {cfg : Params} {p : Panel} (h : p.xe.toNat < p.xs.toNat ∨ p.ye.toNat < p.ys.toNat ∨
    cfg.panelCols ≤ p.xe.toNat ∨ cfg.panelRows ≤ p.ye.toNat) : p.windowLegal cfg = false := by
  simp only [Panel.windowLegal, insideMemory, Bool.and_eq_false_iff, decide_eq_false_iff_not, not_le, not_lt]
  tauto

/-- The byte that completes a pixel of an illegal window makes the sink forget its memory. -/
theorem Panel.pixelByte_fm_of_illegal {cfg : Params} {p : Panel} (b : Byte) (hh : p.half ≠ none)
    (hw : p.windowLegal cfg = false) : (p.pixelByte cfg b).fm = [] := by
  obtain ⟨hi, hhi⟩ := Option.ne_none_iff_exists'.1 hh
  simp [Panel.pixelByte, hhi, hw, Panel.forget]

/-- A fifth byte of an address command makes the sink forget its memory. -/
theorem Panel.addressByte_fm_of_full {p : Panel} (load : Half → Half → Panel → Panel) (b : Byte)
    (h : 4 ≤ p.args.length) : (p.addressByte load b).fm = [] := by
  unfold Panel.addressByte
  split
  · rename_i hargs; simp [hargs] at h
  · rw [if_neg (by omega)]; rfl

end Sys2Proof.Machine

/-! A memory write to a legal window (spec 20_memory R64, R66). The data bytes are fed as pixels (`Panel.paint`); where
the pointer is and what the panel keeps while pixels arrive is one invariant (`Panel.WritesAt`), which every pixel takes
from one cell of the window to the next. -/

namespace Sys2Proof.Machine

/-! ### One pixel after another -/

/-- What a pixel of a memory write does: it is stored at the pointer, which moves on (R64). -/
def Panel.paintPixel (c : Half) (p : Panel) : Panel := (Panel.store (hi8 c) (lo8 c) p).advance

/-- What a list of pixels does, oldest first. -/
def Panel.paint : List Half → Panel → Panel
  | [], p => p
  | c :: px, p => Panel.paint px (p.paintPixel c)

/-- A pixel writes the frame memory and moves the pointer along a row, to the next row or to the window's start; the
panel keeps everything else. -/
theorem Panel.paintPixel_eq (c : Half) (p : Panel) : p.paintPixel c =
    { p with
      fm := (Panel.store (hi8 c) (lo8 c) p).fm
      col := if p.col = p.xe then p.xs else p.col + 1#16
      row := if p.col = p.xe then (if p.row = p.ye then p.ys else p.row + 1#16) else p.row } := by
  unfold Panel.paintPixel Panel.store Panel.advance
  by_cases hm : p.meaningful <;> by_cases hc : p.col = p.xe <;> simp [hm, hc]

section
variable (c : Half) (p : Panel)

@[simp] theorem Panel.paintPixel_xs : (p.paintPixel c).xs = p.xs := by rw [paintPixel_eq]
@[simp] theorem Panel.paintPixel_xe : (p.paintPixel c).xe = p.xe := by rw [paintPixel_eq]
@[simp] theorem Panel.paintPixel_ys : (p.paintPixel c).ys = p.ys := by rw [paintPixel_eq]
@[simp] theorem Panel.paintPixel_ye : (p.paintPixel c).ye = p.ye := by rw [paintPixel_eq]
@[simp] theorem Panel.paintPixel_cmd : (p.paintPixel c).cmd = p.cmd := by rw [paintPixel_eq]
@[simp] theorem Panel.paintPixel_half : (p.paintPixel c).half = p.half := by rw [paintPixel_eq]
@[simp] theorem Panel.paintPixel_meaningful : (p.paintPixel c).meaningful = p.meaningful := by rw [paintPixel_eq]

theorem Panel.paintPixel_col : (p.paintPixel c).col = if p.col = p.xe then p.xs else p.col + 1#16 := by
  rw [paintPixel_eq]

theorem Panel.paintPixel_row : (p.paintPixel c).row =
    if p.col = p.xe then (if p.row = p.ye then p.ys else p.row + 1#16) else p.row := by
  rw [paintPixel_eq]

@[simp] theorem Panel.paintPixel_windowLegal (cfg : Params) : (p.paintPixel c).windowLegal cfg = p.windowLegal cfg := by
  simp [Panel.windowLegal]

end

@[simp] theorem Panel.pixel_advance (p : Panel) (col row : Half) : p.advance.pixel col row = p.pixel col row := by
  simp [Panel.pixel]

theorem Panel.pixel_paintPixel (c : Half) {p : Panel} (h : p.meaningful = true) (col row : Half) :
    (p.paintPixel c).pixel col row = if col = p.col ∧ row = p.row then some c else p.pixel col row := by
  rw [Panel.paintPixel, Panel.pixel_advance, Panel.pixel_store _ _ _ h, ofBe16_be16]

/-- The data bytes of pixels, after the memory-write command and to a legal window, paint these pixels. -/
theorem Panel.feed_pixels {cfg : Params} (hd : cfg.Distinct) (px : List Half) {p : Panel}
    (hc : p.cmd = some cfg.cmdRamwr) (hh : p.half = none) (hw : p.windowLegal cfg = true) :
    p.feed cfg ((px.flatMap be16).map (WireItem.byte true)) = p.paint px := by
  induction px generalizing p with
  | nil => rfl
  | cons c px ih =>
    rw [Panel.feed_pixels_cons, Panel.feed_pixel cfg hd c p hc hh hw]
    exact ih ((p.paintPixel_cmd c).trans hc) ((p.paintPixel_half c).trans hh) ((p.paintPixel_windowLegal c cfg).trans hw)

/-- What every pixel keeps, a list of pixels keeps. -/
theorem Panel.paint_keeps {α : Type} (f : Panel → α) (hf : ∀ c p, f (Panel.paintPixel c p) = f p) (px : List Half)
    (p : Panel) : f (p.paint px) = f p := by
  induction px generalizing p with
  | nil => rfl
  | cons c px ih => exact (ih _).trans (hf c p)

@[simp] theorem Panel.paint_half (px : List Half) (p : Panel) : (p.paint px).half = p.half :=
  paint_keeps Panel.half paintPixel_half px p

@[simp] theorem Panel.paint_xs (px : List Half) (p : Panel) : (p.paint px).xs = p.xs :=
  paint_keeps Panel.xs paintPixel_xs px p

@[simp] theorem Panel.paint_ys (px : List Half) (p : Panel) : (p.paint px).ys = p.ys :=
  paint_keeps Panel.ys paintPixel_ys px p

/-! ### The pointer in its window -/

/-- The column of the `k`-th cell of a window `w` columns wide that starts at column `xs`. -/
def cellCol (xs : Half) (w k : Nat) : Half := xs + BitVec.ofNat 16 (k % w)

/-- The row of the `k`-th cell of a window of `w` by `h` that starts at row `ys`; after the last cell comes the first. -/
def cellRow (ys : Half) (w h k : Nat) : Half := ys + BitVec.ofNat 16 (k / w % h)

/-- The window registers hold a window of `w` by `h`. -/
structure Panel.Window (p : Panel) (w h : Nat) : Prop where
  xe : p.xe.toNat = p.xs.toNat + w - 1
  ye : p.ye.toNat = p.ys.toNat + h - 1
  w_pos : 0 < w
  h_pos : 0 < h

/-- A sink with a meaning, a window of `w` by `h`, and the pointer at the window's `k`-th cell. -/
structure Panel.WritesAt (p : Panel) (w h k : Nat) : Prop where
  window : p.Window w h
  meaningful : p.meaningful = true
  col : p.col = cellCol p.xs w k
  row : p.row = cellRow p.ys w h k

theorem toNat_add_ofNat {a : Half} {i : Nat} (h : a.toNat + i < 65536) : (a + BitVec.ofNat 16 i).toNat = a.toNat + i := by
  rw [BitVec.toNat_add, BitVec.toNat_ofNat, Nat.add_mod_mod]
  exact Nat.mod_eq_of_lt h

section
variable {p : Panel} {w h : Nat} (hw : p.Window w h)
include hw

theorem Panel.Window.toNat_cellCol (k : Nat) : (cellCol p.xs w k).toNat = p.xs.toNat + k % w := by
  have hlt := Nat.mod_lt k hw.w_pos
  have hxe := hw.xe
  exact toNat_add_ofNat (by omega)

theorem Panel.Window.toNat_cellRow (k : Nat) : (cellRow p.ys w h k).toNat = p.ys.toNat + k / w % h := by
  have hlt := Nat.mod_lt (k / w) hw.h_pos
  have hye := hw.ye
  exact toNat_add_ofNat (by omega)

theorem Panel.Window.cellCol_eq_xe_iff (k : Nat) : cellCol p.xs w k = p.xe ↔ k % w + 1 = w := by
  have hpos := hw.w_pos
  rw [← BitVec.toNat_inj, hw.toNat_cellCol, hw.xe]
  omega

theorem Panel.Window.cellRow_eq_ye_iff (k : Nat) : cellRow p.ys w h k = p.ye ↔ k / w % h + 1 = h := by
  have hpos := hw.h_pos
  rw [← BitVec.toNat_inj, hw.toNat_cellRow, hw.ye]
  omega

/-- Every cell lies inside the window registers. -/
theorem Panel.Window.cell_inside (k : Nat) :
    (p.xs.toNat ≤ (cellCol p.xs w k).toNat ∧ (cellCol p.xs w k).toNat ≤ p.xe.toNat) ∧
    (p.ys.toNat ≤ (cellRow p.ys w h k).toNat ∧ (cellRow p.ys w h k).toNat ≤ p.ye.toNat) := by
  have hcol := Nat.mod_lt k hw.w_pos
  have hrow := Nat.mod_lt (k / w) hw.h_pos
  have hxe := hw.xe
  have hye := hw.ye
  rw [hw.toNat_cellCol, hw.toNat_cellRow]
  omega

/-- The `w * h` cells of a window are all different. -/
theorem Panel.Window.cell_inj {m n : Nat} (hm : m < w * h) (hn : n < w * h)
    (hcol : cellCol p.xs w m = cellCol p.xs w n) (hrow : cellRow p.ys w h m = cellRow p.ys w h n) : m = n := by
  have hc := congrArg BitVec.toNat hcol
  have hr := congrArg BitVec.toNat hrow
  rw [hw.toNat_cellCol, hw.toNat_cellCol, Nat.add_left_cancel_iff] at hc
  rw [hw.toNat_cellRow, hw.toNat_cellRow, Nat.add_left_cancel_iff, Nat.mod_eq_of_lt (Nat.div_lt_of_lt_mul hm),
    Nat.mod_eq_of_lt (Nat.div_lt_of_lt_mul hn)] at hr
  rw [← Nat.div_add_mod m w, ← Nat.div_add_mod n w, hc, hr]

end

/-- After the last cell of a row comes the first of the next row. -/
theorem succ_of_row_end {w k : Nat} (hw : 0 < w) (h : k % w + 1 = w) : (k + 1) / w = k / w + 1 ∧ (k + 1) % w = 0 := by
  refine (Nat.div_mod_unique hw).2 ⟨?_, hw⟩
  have hk := Nat.mod_add_div k w
  rw [Nat.mul_succ]
  omega

/-- After any other cell comes the next one of its row. -/
theorem succ_of_row_inside {w k : Nat} (hw : 0 < w) (h : k % w + 1 ≠ w) :
    (k + 1) / w = k / w ∧ (k + 1) % w = k % w + 1 := by
  have hlt := Nat.mod_lt k hw
  have hk := Nat.mod_add_div k w
  exact (Nat.div_mod_unique hw).2 ⟨by omega, by omega⟩

theorem cellCol_succ (xs : Half) {w k : Nat} (hw : 0 < w) :
    cellCol xs w (k + 1) = if k % w + 1 = w then xs else cellCol xs w k + 1#16 := by
  split
  · simp [cellCol, (succ_of_row_end hw ‹_›).2]
  · simp [cellCol, (succ_of_row_inside hw ‹_›).2, BitVec.ofNat_add, BitVec.add_assoc]

theorem cellRow_succ (ys : Half) {w h k : Nat} (hw : 0 < w) (hh : 0 < h) : cellRow ys w h (k + 1) =
    if k % w + 1 = w then (if k / w % h + 1 = h then ys else cellRow ys w h k + 1#16) else cellRow ys w h k := by
  split
  · split
    · simp [cellRow, (succ_of_row_end hw ‹_›).1, (succ_of_row_end hh ‹_›).2]
    · simp [cellRow, (succ_of_row_end hw ‹_›).1, (succ_of_row_inside hh ‹_›).2, BitVec.ofNat_add, BitVec.add_assoc]
  · simp [cellRow, (succ_of_row_inside hw ‹_›).1]

/-! ### Pixels into a window (R66) -/

/-- A pixel takes the pointer from a cell of the window to the next one. -/
theorem Panel.WritesAt.paintPixel {p : Panel} {w h k : Nat} (hp : p.WritesAt w h k) (c : Half) :
    (p.paintPixel c).WritesAt w h (k + 1) where
  window := ⟨by simpa using hp.window.xe, by simpa using hp.window.ye, hp.window.w_pos, hp.window.h_pos⟩
  meaningful := by simpa using hp.meaningful
  col := by
    simp only [paintPixel_col, paintPixel_xs, hp.col, hp.window.cellCol_eq_xe_iff, cellCol_succ _ hp.window.w_pos]
  row := by
    simp only [paintPixel_row, paintPixel_ys, hp.col, hp.row, hp.window.cellCol_eq_xe_iff,
      hp.window.cellRow_eq_ye_iff, cellRow_succ _ hp.window.w_pos hp.window.h_pos]

theorem Panel.WritesAt.paint {w h : Nat} (px : List Half) {p : Panel} {k : Nat} (hp : p.WritesAt w h k) :
    (p.paint px).WritesAt w h (k + px.length) := by
  induction px generalizing p k with
  | nil => exact hp
  | cons c px ih =>
    rw [List.length_cons, ← Nat.add_assoc, Nat.add_right_comm]
    exact ih (hp.paintPixel c)

/-- Pixels leave every pixel alone that is none of the cells they are written to. -/
theorem Panel.WritesAt.pixel_paint_of_ne {w h : Nat} (px : List Half) {p : Panel} {k : Nat} (hp : p.WritesAt w h k)
    {col row : Half} (hne : ∀ n < px.length, ¬ (col = cellCol p.xs w (k + n) ∧ row = cellRow p.ys w h (k + n))) :
    (p.paint px).pixel col row = p.pixel col row := by
  induction px generalizing p k with
  | nil => rfl
  | cons c px ih =>
    have hrest : ∀ n < px.length, ¬ (col = cellCol (p.paintPixel c).xs w (k + 1 + n) ∧
        row = cellRow (p.paintPixel c).ys w h (k + 1 + n)) := by
      intro n hn
      rw [paintPixel_xs, paintPixel_ys, Nat.add_assoc, Nat.add_comm 1 n]
      exact hne (n + 1) (Nat.succ_lt_succ hn)
    have hfirst : ¬ (col = p.col ∧ row = p.row) := by
      rw [hp.col, hp.row]
      exact hne 0 (Nat.succ_pos _)
    exact (ih (hp.paintPixel c) hrest).trans (by rw [pixel_paintPixel c hp.meaningful, if_neg hfirst])

/-- The `n`-th pixel is the value of the cell it is written to: no later one falls on the same cell. -/
theorem Panel.WritesAt.pixel_paint_cell {w h : Nat} (px : List Half) {p : Panel} {k : Nat} (hp : p.WritesAt w h k)
    (hlen : k + px.length ≤ w * h) {n : Nat} (hn : n < px.length) :
    (p.paint px).pixel (cellCol p.xs w (k + n)) (cellRow p.ys w h (k + n)) = px[n]? := by
  induction px generalizing p k n with
  | nil => cases hn
  | cons c px ih =>
    have hnext := hp.paintPixel c
    rw [List.length_cons] at hlen hn
    cases n with
    | zero =>
      have hkeep := hnext.pixel_paint_of_ne px (col := cellCol p.xs w k) (row := cellRow p.ys w h k) (by
        rintro m hm ⟨hcol, hrow⟩
        rw [paintPixel_xs] at hcol
        rw [paintPixel_ys] at hrow
        have := hp.window.cell_inj (by omega) (by omega) hcol hrow
        omega)
      refine hkeep.trans ?_
      rw [pixel_paintPixel c hp.meaningful, if_pos ⟨hp.col.symm, hp.row.symm⟩]
      rfl
    | succ n =>
      have htail := ih hnext (by omega) (n := n) (by omega)
      rwa [paintPixel_xs, paintPixel_ys, Nat.add_assoc, Nat.add_comm 1 n] at htail

/-! ### A whole memory write (R66) -/

/-- The memory-write command with the pixels that follow it, to a legal window. -/
theorem Panel.feed_memoryWrite {cfg : Params} (hd : cfg.Distinct) (px : List Half) {p : Panel}
    (hw : p.windowLegal cfg = true) :
    p.feed cfg (.byte false cfg.cmdRamwr :: (px.flatMap be16).map (.byte true)) =
      (p.command cfg.cmdRamwr).startWrite.paint px := by
  rw [Panel.feed_cons, Panel.receive_ramwr hd]
  exact Panel.feed_pixels hd px rfl rfl hw

/-- The memory-write command puts the pointer on the first cell of the window. -/
theorem Panel.Window.writesAt_startWrite {p : Panel} {w h : Nat} (hw : p.Window w h) (hm : p.meaningful = true)
    (c : Byte) : (p.command c).startWrite.WritesAt w h 0 where
  window := ⟨hw.xe, hw.ye, hw.w_pos, hw.h_pos⟩
  meaningful := hm
  col := by simp [cellCol, Panel.startWrite]
  row := by simp [cellRow, Panel.startWrite]

/-- After as many pixels as the window has cells the pointer is back at its start. -/
theorem Panel.WritesAt.at_start {p : Panel} {w h : Nat} (hp : p.WritesAt w h (w * h)) : p.col = p.xs ∧ p.row = p.ys := by
  rw [hp.col, hp.row]
  simp [cellCol, cellRow, Nat.mul_div_cancel_left h hp.window.w_pos]

/-- Cell `j * w + i` of a window is column `i` of its row `j`. -/
theorem cell_of_coords (xs ys : Half) {w h i j : Nat} (hi : i < w) (hj : j < h) :
    cellCol xs w (j * w + i) = xs + BitVec.ofNat 16 i ∧ cellRow ys w h (j * w + i) = ys + BitVec.ofNat 16 j := by
  have hdiv : (j * w + i) / w = j := by
    rw [Nat.mul_comm, Nat.mul_add_div (by omega), Nat.div_eq_of_lt hi, Nat.add_zero]
  simp [cellCol, cellRow, hdiv, Nat.mod_eq_of_lt hi, Nat.mod_eq_of_lt hj]

end Sys2Proof.Machine

/-! The obligations on the memories and the panel's step (spec 20_memory), settled. -/

namespace Sys2Proof.Machine

/-! ### The panel's memory write -/

/-- A memory write of as many pixels as a legal window has cells paints these cells and leaves the pointer at the
window's start. -/
theorem Panel.memoryWrite_paints {cfg : Params} {p : Panel} {w h : Nat} {px : List Half} (hd : cfg.Distinct)
    (hm : p.meaningful = true) (hl : p.windowLegal cfg = true) (hw : p.Window w h) (hlen : px.length = w * h) :
    ∃ q, p.feed cfg (.byte false cfg.cmdRamwr :: (px.flatMap be16).map (.byte true)) = q ∧ q.meaningful = true ∧
      q.col = p.xs ∧ q.row = p.ys ∧ q.half = none ∧
      (∀ i j, i < w → j < h → q.pixel (p.xs + BitVec.ofNat 16 i) (p.ys + BitVec.ofNat 16 j) = px[j * w + i]?) ∧
      (∀ col row : Half, ¬ (p.xs.toNat ≤ col.toNat ∧ col.toNat ≤ p.xe.toNat ∧ p.ys.toNat ≤ row.toNat ∧
        row.toNat ≤ p.ye.toNat) → q.pixel col row = p.pixel col row) := by
  have hstart := hw.writesAt_startWrite hm cfg.cmdRamwr
  have hend := hstart.paint px
  rw [Nat.zero_add, hlen] at hend
  obtain ⟨hcol, hrow⟩ := hend.at_start
  refine ⟨_, Panel.feed_memoryWrite hd px hl, hend.meaningful, hcol.trans (paint_xs px _), hrow.trans (paint_ys px _),
    paint_half px _, fun i j hi hj => ?_, fun col row hout => ?_⟩
  · have hcell := hstart.pixel_paint_cell px (n := j * w + i) (by omega) (by
      calc j * w + i < j * w + w := by omega
        _ = (j + 1) * w := (Nat.succ_mul j w).symm
        _ ≤ h * w := Nat.mul_le_mul_right w hj
        _ = px.length := by rw [hlen, Nat.mul_comm])
    obtain ⟨hc, hr⟩ := cell_of_coords p.xs p.ys hi hj
    rw [Nat.zero_add] at hcell
    rw [← hc, ← hr]
    exact hcell
  · refine hstart.pixel_paint_of_ne px fun n _ hn => hout ?_
    obtain ⟨rfl, rfl⟩ := hn
    obtain ⟨⟨h1, h2⟩, h3, h4⟩ := hw.cell_inside (0 + n)
    exact ⟨h1, h2, h3, h4⟩

/-- Settles O47: the pointer visits the cells of the window one after another, each once; a cut takes the sink's meaning
away; a refused byte makes it forget its memory. -/
theorem memoryWritePaintsTheWindow : Obligations.MemoryWritePaintsTheWindow := by
  unfold Obligations.MemoryWritePaintsTheWindow
  refine ⟨fun cfg p w h px hd hm hl hxe hye hwp hhp hlen =>
      Panel.memoryWrite_paints hd hm hl ⟨hxe, hye, hwp, hhp⟩ hlen,
    fun cfg p items hno col row => ?_, fun cfg p b hd hrefused => ⟨p.data_meaningful cfg b, ?_⟩⟩
  · exact Panel.pixel_of_meaningless (Panel.feed_meaningless cfg items hno p.refuse rfl) col row
  · refine Panel.pixel_of_fm_nil (?_ : (p.data cfg b).fm = [])
    rcases hrefused with ⟨hc, hhalf, hbad⟩ | ⟨hc | hc, hargs⟩ | hother
    · rw [Panel.data_ramwr cfg hd b p hc]
      exact Panel.pixelByte_fm_of_illegal b hhalf (Panel.windowLegal_eq_false hbad)
    · rw [Panel.data_caset cfg hd b p hc]
      exact Panel.addressByte_fm_of_full _ b hargs
    · rw [Panel.data_raset cfg hd b p hc]
      exact Panel.addressByte_fm_of_full _ b hargs
    · rw [Panel.data_other cfg b p hother]
      rfl

/-! ### Commands -/

/-- Settles O46: either address command becomes current and its four data bytes are collected and loaded. -/
theorem addressCommandsLoadTheWindow : Obligations.AddressCommandsLoadTheWindow := by
  unfold Obligations.AddressCommandsLoadTheWindow
  intro cfg p a b hd
  constructor
  · rw [Panel.feed_cons, Panel.receive_command hd.caset_ne_swreset hd.caset_ne_ramwr,
      Panel.feed_address (Panel.data_caset cfg hd)]
    rfl
  · rw [Panel.feed_cons, Panel.receive_command hd.raset_ne_swreset hd.raset_ne_ramwr,
      Panel.feed_address (Panel.data_raset cfg hd)]
    rfl

/-- Settles O28: each of the twelve commands is `Panel.command` of its byte, memory-write moves the pointer as well. -/
theorem wireCommandsBecomeCurrent : Obligations.WireCommandsBecomeCurrent := by
  unfold Obligations.WireCommandsBecomeCurrent
  refine ⟨fun s i c hic => ?_, fun s => rfl⟩
  simp only [List.mem_cons, Prod.mk.injEq, List.not_mem_nil, or_false] at hic
  rcases hic with ⟨rfl, rfl⟩ | ⟨rfl, rfl⟩ | ⟨rfl, rfl⟩ | ⟨rfl, rfl⟩ | ⟨rfl, rfl⟩ | ⟨rfl, rfl⟩ | ⟨rfl, rfl⟩ |
    ⟨rfl, rfl⟩ | ⟨rfl, rfl⟩ | ⟨rfl, rfl⟩ | ⟨rfl, rfl⟩ | ⟨rfl, rfl⟩ <;> rfl

/-- Settles O29: the software reset leaves an empty frame memory. -/
theorem softwareResetForgetsTheMemory : Obligations.SoftwareResetForgetsTheMemory := by
  unfold Obligations.SoftwareResetForgetsTheMemory
  intro s
  exact ⟨(s.panel.command s.params.cmdSwreset).softReset, rfl, rfl, rfl, rfl, Panel.pixel_of_fm_nil rfl⟩

/-! ### The panel's step and what every step keeps -/

/-- Settles O12: with a byte on the wire the step is the panel's, which executes the command it decodes to. -/
theorem stepExecutesTheWireCommand : Obligations.StepExecutesTheWireCommand := by
  unfold Obligations.StepExecutesTheWireCommand
  intro s b rest i hr hw hd
  rw [step_receive hr hw]
  simp only [receive, hd]

/-- Settles O15, by induction on the wire. -/
theorem panelReceivesTheWholeWire : Obligations.PanelReceivesTheWholeWire := by
  unfold Obligations.PanelReceivesTheWholeWire
  exact fun s hr => run_wire s.wire hr rfl

/-- Settles O56: only the panel's step writes a memory, its frame memory, and keeps it canonical. -/
theorem stepKeepsMemoriesCanonical : Obligations.StepKeepsMemoriesCanonical := by
  unfold Obligations.StepKeepsMemoriesCanonical MemoryInv
  intro s t h
  rcases step_cases s t h with ⟨-, rfl⟩ | ⟨item, rest, -, rfl⟩ | ⟨-, -, -, ⟨i, hi, he⟩ | rfl | rfl⟩
  · exact ⟨rfl, rfl, id⟩
  · exact ⟨rfl, rfl, fun ⟨hs, hf⟩ => ⟨hs, Panel.receive_wf s.params item s.panel hf⟩⟩
  · obtain ⟨hstream, hparams, hpanel⟩ := exec_memories i hi he
    exact ⟨hstream, hparams, by rw [hstream, hpanel]; exact id⟩
  · exact ⟨rfl, rfl, id⟩
  · exact ⟨rfl, rfl, id⟩

/-! ### The address translator -/

/-- Settles O38: a position inside the Frame Window stays below its end, which is at most 320, so nothing wraps. -/
theorem translationInsideTheFrame : Obligations.TranslationInsideTheFrame := by
  unfold Obligations.TranslationInsideTheFrame
  intro s x y hf hx0 hx hy0 hy
  obtain ⟨hxend, hyend⟩ := hf.end_le
  have htx : ((tx s x).toNat : Int) = x + s.ox.toNat := toNat_u16 (by rw [zext]; omega) (by rw [zext]; omega)
  have hty : ((ty s y).toNat : Int) = y + s.oy.toNat := toNat_u16 (by rw [zext]; omega) (by rw [zext]; omega)
  exact ⟨htx, hty, by omega, by omega⟩

end Sys2Proof.Machine

/-! The rules of the two encodings (spec 30_encoding): what the descriptor decoder answers, how much of the bytes it
reads, that each encoding is decoded to the instruction it encodes, and what the fetch makes of the bytes at `pc`. -/

namespace Sys2Proof

/-! ### What a descriptor decodes to (R84 to R86) -/

section
variable {d : Desc} {rest : List Byte}

/-- OP is none of the ten that R85 lists. -/
def Desc.Unlisted (d : Desc) : Prop := d.op = 0x00#8 ∨ 0x0B ≤ d.op.toNat

theorem Desc.op_mem_of_listed (h : ¬ d.Unlisted) :
    d.op ∈ [0x01#8, 0x02#8, 0x03#8, 0x04#8, 0x05#8, 0x06#8, 0x07#8, 0x08#8, 0x09#8, 0x0A#8] := by
  unfold Desc.Unlisted at h
  simp only [List.mem_cons, List.not_mem_nil, or_false]
  bv_omega

theorem decodeDesc_of_rsv (h : d.rsv ≠ 0x00#8) : decodeDesc d rest = .error .reservedNotZero := by
  simp [decodeDesc, h]

theorem decodeDesc_of_unlisted (hr : d.rsv = 0x00#8) (h : d.Unlisted) : decodeDesc d rest = .error .illegalOp := by
  have hne (k : Byte) (h0 : 0 < k.toNat) (hk : k.toNat < 0x0B) : d.op ≠ k := by
    rintro rfl
    rcases h with h | h
    · simp [h] at h0
    · omega
  simp [decodeDesc, hr, hne]

theorem decodeDesc_blit (hr : d.rsv = 0x00#8) (ho : d.op = 0x04#8) (hl : d.len.toNat ≤ rest.length) :
    decodeDesc d rest =
      .ok (.blit d.a0 d.a1 d.a2 d.a3 d.len (rest.take d.len.toNat), rest.drop (beatBytes d.len.toNat)) := by
  simp [decodeDesc, hr, ho, Nat.not_lt.2 hl]

theorem decodeDesc_blit_short (hr : d.rsv = 0x00#8) (ho : d.op = 0x04#8) (hl : rest.length < d.len.toNat) :
    decodeDesc d rest = .error .shortPayload := by
  simp [decodeDesc, hr, ho, hl]

/-- Every listed operation but BLIT owns 16 bytes and is decoded whatever follows them. -/
theorem decodeDesc_of_listed (hr : d.rsv = 0x00#8) (h : ¬ d.Unlisted) (hb : d.op ≠ 0x04#8) :
    ∃ i : Instr, i.size = 16 ∧ ∀ more, decodeDesc d more = .ok (i, more) := by
  have hmem := Desc.op_mem_of_listed h
  simp only [List.mem_cons, List.not_mem_nil, or_false] at hmem
  rcases hmem with ho | ho | ho | ho | ho | ho | ho | ho | ho | ho
  case inr.inr.inr.inl => exact absurd ho hb
  all_goals simp [decodeDesc, hr, ho, Instr.size]

/-- BACKLIGHT reads one bit of one field. -/
theorem decodeDesc_backlight (ho : d.op = 0x0A#8) : decodeDesc d rest =
    if d.rsv = 0x00#8 then .ok (.backlight (d.a0.getLsbD 0), rest) else .error .reservedNotZero := by
  simp [decodeDesc, ho]

/-- Where RSV is 0 and OP is listed, the only error left is a payload that is not there. -/
theorem decodeDesc_error_of_listed {e : DecodeError} (hr : d.rsv = 0x00#8) (h : ¬ d.Unlisted)
    (hd : decodeDesc d rest = .error e) : e = .shortPayload := by
  by_cases hb : d.op = 0x04#8
  · rcases Nat.lt_or_ge rest.length d.len.toNat with hl | hl
    · simpa [decodeDesc_blit_short hr hb hl, eq_comm] using hd
    · simp [decodeDesc_blit hr hb hl] at hd
  · obtain ⟨i, -, hi⟩ := decodeDesc_of_listed hr h hb
    simp [hi] at hd

/-- INVERSION of the descriptor decoder: a BLIT with its payload, or an operation of 16 bytes, which does not
depend on the bytes that follow. -/
theorem decodeDesc_ok {i : Instr} {r : List Byte} (hd : decodeDesc d rest = .ok (i, r)) :
    d.rsv = 0x00#8 ∧
    ((d.op = 0x04#8 ∧ d.len.toNat ≤ rest.length ∧
        i = .blit d.a0 d.a1 d.a2 d.a3 d.len (rest.take d.len.toNat) ∧ r = rest.drop (beatBytes d.len.toNat)) ∨
      (d.op ≠ 0x04#8 ∧ i.size = 16 ∧ r = rest ∧ ∀ more, decodeDesc d more = .ok (i, more))) := by
  have hr : d.rsv = 0x00#8 := by
    by_contra hr
    simp [decodeDesc_of_rsv hr] at hd
  have hlisted : ¬ d.Unlisted := fun h => by simp [decodeDesc_of_unlisted hr h] at hd
  refine ⟨hr, ?_⟩
  by_cases hb : d.op = 0x04#8
  · rcases Nat.lt_or_ge rest.length d.len.toNat with hl | hl
    · simp [decodeDesc_blit_short hr hb hl] at hd
    · rw [decodeDesc_blit hr hb hl] at hd
      cases hd
      exact .inl ⟨hb, hl, rfl, rfl⟩
  · obtain ⟨j, hsize, hj⟩ := decodeDesc_of_listed hr hlisted hb
    cases (hj rest).symm.trans hd
    exact .inr ⟨hb, hsize, rfl, hj⟩

end

/-! ### How much of a stream is read (R83, R84) -/

theorem Desc.payloadLen_blit {d : Desc} (hr : d.rsv = 0x00#8) (ho : d.op = 0x04#8) : d.payloadLen = d.len.toNat :=
  if_pos ⟨ho, hr⟩

theorem Desc.payloadLen_of_ne {d : Desc} (ho : d.op ≠ 0x04#8) : d.payloadLen = 0 :=
  if_neg fun h => ho h.1

theorem Desc.length_of_parse {bs rest : List Byte} {d : Desc} (h : Desc.parse bs = some (d, rest)) :
    16 ≤ bs.length := by
  unfold Desc.parse at h
  split at h
  · simp
  · cases h

theorem Desc.parse_append {head : List Byte} {d : Desc} (h : Desc.parse head = some (d, [])) (more : List Byte) :
    Desc.parse (head ++ more) = some (d, more) := by
  unfold Desc.parse at h
  split at h <;> cases h
  rfl

/-- An operation is decoded from its payload bytes alone: the pad bytes and what follows them are not read. -/
theorem decodeDesc_take {d : Desc} {rest r : List Byte} {i : Instr} (h : decodeDesc d rest = .ok (i, r)) :
    d.payloadLen ≤ rest.length ∧ ∃ r', decodeDesc d (rest.take d.payloadLen) = .ok (i, r') := by
  obtain ⟨hr, ⟨ho, hl, rfl, -⟩ | ⟨ho, -, -, hmore⟩⟩ := decodeDesc_ok h
  · rw [Desc.payloadLen_blit hr ho]
    have htake : d.len.toNat ≤ (rest.take d.len.toNat).length := by simp [hl]
    have hd := decodeDesc_blit hr ho htake
    rw [List.take_take, Nat.min_self] at hd
    exact ⟨hl, _, hd⟩
  · rw [Desc.payloadLen_of_ne ho]
    exact ⟨Nat.zero_le _, _, hmore _⟩

/-- Of a stream, the descriptor and the payload it announces are enough. -/
theorem decode_head_payload {bs r : List Byte} {i : Instr} (h : decode bs = .ok (i, r)) :
    ∃ d, Desc.parse (bs.take 16) = some (d, []) ∧ 16 + d.payloadLen ≤ bs.length ∧
      ∃ r', decode (bs.take 16 ++ (bs.drop 16).take d.payloadLen) = .ok (i, r') := by
  unfold decode at h
  split at h
  · cases h
  · rename_i d rest hparse
    have h16 := Desc.length_of_parse hparse
    obtain ⟨d', hhead, hall⟩ := Desc.parse_take bs h16
    obtain ⟨rfl, rfl⟩ := Prod.mk.inj (Option.some.inj (hparse.symm.trans hall))
    obtain ⟨hl, r', hd⟩ := decodeDesc_take h
    rw [List.length_drop] at hl
    refine ⟨d, hhead, by omega, r', ?_⟩
    rw [decode, Desc.parse_append hhead]
    exact hd

/-! ### Wire commands round (R88) -/

/-- The fourteen wire commands, in the order of `Params.commands`. -/
def wireCommands : List Instr :=
  [.swreset, .slpout, .noron, .invoff, .invon, .dispoff, .dispon, .caset, .raset, .ramwr, .vscrdef, .madctl, .vscrsadd,
   .colmod]

theorem mem_wireCommands {i : Instr} (h : i.format = .wire8) : i ∈ wireCommands := by
  cases i <;> cases h <;> decide

theorem map_encode_wireCommands (cfg : Params) : wireCommands.map (encode cfg) = cfg.commands.map ([·]) := rfl

/-- Under distinct command bytes a wire command is decoded from its own byte: `decodeWire` answers some command with
that byte (`decodeWire_some`), and no other has it. -/
theorem Params.Distinct.decodeWire_encode {cfg : Params} (hd : cfg.Distinct) {i : Instr} (hi : i.format = .wire8) :
    ∃ b, encode cfg i = [b] ∧ decodeWire cfg b = some i := by
  have hmem := List.mem_map_of_mem (f := encode cfg) (mem_wireCommands hi)
  rw [map_encode_wireCommands] at hmem
  obtain ⟨b, hb, he⟩ := List.mem_map.1 hmem
  refine ⟨b, he.symm, ?_⟩
  cases hj : decodeWire cfg b with
  | none => exact absurd hb (decodeWire_none cfg b hj)
  | some j =>
    obtain ⟨hjw, hje⟩ := decodeWire_some cfg b j hj
    have hnodup : (wireCommands.map (encode cfg)).Nodup := by
      rw [map_encode_wireCommands]
      exact List.Nodup.map List.singleton_injective hd
    rw [List.inj_on_of_nodup_map hnodup (mem_wireCommands hjw) (mem_wireCommands hi) (hje.trans he)]

/-! ### Descriptors round (R81, R84, R85) -/

/-- The payload and its padding fill whole beats, so dropping the beats leaves what follows them. -/
theorem drop_padded_payload (payload rest : List Byte) :
    (payload ++ (List.replicate (beatBytes payload.length - payload.length) 0#8 ++ rest)).drop
      (beatBytes payload.length) = rest := by
  rw [← List.append_assoc]
  refine List.drop_left' ?_
  rw [List.length_append, List.length_replicate, Nat.add_sub_cancel' (le_beatBytes _)]

theorem decode_encode_blit (cfg : Params) (x y w h : Half) {len : Word32} {payload : List Byte} (rest : List Byte)
    (hl : payload.length = len.toNat) :
    decode (encode cfg (.blit x y w h len payload) ++ rest) = .ok (.blit x y w h len payload, rest) := by
  rw [encode, List.append_assoc, List.append_assoc, decode_bytes, decodeDesc_blit rfl rfl (by simp [← hl])]
  simp only [← hl, List.take_left', drop_padded_payload]

theorem decode_encode (cfg : Params) {i : Instr} (rest : List Byte) (hi : i.format = .desc128) (hw : i.wf = true) :
    decode (encode cfg i ++ rest) = .ok (i, rest) := by
  cases i with
  | blit x y w h len payload => exact decode_encode_blit cfg x y w h rest (by simpa [Instr.wf] using hw)
  | backlight on => cases on <;> simp [encode, decode_bytes, decodeDesc]
  | init | setMode | setWindow | fillRect | pixel | clear | line | circle => simp [encode, decode_bytes, decodeDesc]
  | swreset | slpout | noron | invoff | invon | dispoff | dispon | caset | raset | ramwr | vscrdef | madctl | vscrsadd
  | colmod => cases hi

end Sys2Proof

namespace Sys2Proof.Machine

/-! ### The step of an idle sequencer (R84) -/

section
variable {s : State} (h : s.Idle)
include h

theorem State.Idle.fetch_eq : fetch s = fetchStream s := by
  obtain ⟨-, -, hf, ho⟩ := h
  simp [fetch, hf, ho]

theorem State.Idle.step_run {i : Instr} (hf : fetchStream s = .run i) : step s = exec i s := by
  have hfetch := h.fetch_eq
  obtain ⟨hr, hw, -, -⟩ := h
  simp [step, hr, hw, hfetch, hf]

theorem State.Idle.step_wait (hf : fetchStream s = .wait) : step s = .next (accept s) := by
  have hfetch := h.fetch_eq
  obtain ⟨hr, hw, -, -⟩ := h
  simp [step, hr, hw, hfetch, hf]

theorem State.Idle.step_stop {f : Fault} (hf : fetchStream s = .stop f) : step s = .fault f := by
  have hfetch := h.fetch_eq
  obtain ⟨hr, hw, -, -⟩ := h
  simp [step, hr, hw, hfetch, hf]

end

/-- Bytes at `pc` that decode to an operation are fetched as that operation, however many are looked at. -/
theorem fetchStream_of_decode {s : State} {n : Nat} {bs rest : List Byte} {i : Instr}
    (hread : s.stream.readRange s.pc n = some bs) (hd : decode bs = .ok (i, rest)) : fetchStream s = .run i := by
  obtain ⟨d, hparse, hlen, r', hd'⟩ := decode_head_payload hd
  obtain rfl := Mem.length_readRange _ _ _ _ hread
  obtain ⟨m, hm⟩ := Nat.exists_eq_add_of_le (Nat.le_of_add_right_le hlen)
  have hhead := Mem.readRange_take _ _ 16 _ _ hread (by omega)
  have htail := Mem.readRange_drop _ m 16 _ _ (hm ▸ hread)
  have hpayload := Mem.readRange_take _ _ d.payloadLen _ _ htail (by omega)
  simp [fetchStream, hhead, hparse, hpayload, hd']

/-- A BLIT whose payload is not there is accepted once, then it waits. -/
theorem fetchStream_blit_waits {s : State} {head rest : List Byte} {d : Desc}
    (hhead : s.stream.readRange s.pc 16 = some head) (hparse : Desc.parse head = some (d, rest)) (ho : d.op = 0x04#8)
    (hr : d.rsv = 0x00#8) (hpayload : s.stream.readRange (s.pc + 16) d.len.toNat = none) :
    fetchStream s = if s.busy then .stop .payloadMissing else .wait := by
  simp [fetchStream, hhead, hparse, Desc.payloadLen_blit hr ho, hpayload]

theorem State.Good.inReady {s : State} (h : s.Good) : inReady s = true := by
  obtain ⟨hf, ho⟩ := h
  simp [Machine.inReady, hf, ho]

/-! ### A number in a signed 16-bit field (R178) -/

theorem toInt_u16 {v : Int} (h0 : -32768 ≤ v) (h1 : v ≤ 32767) : (u16 v).toInt = v := by
  rw [u16, BitVec.toInt_ofInt]
  exact Int.bmod_eq_of_le (by omega) (by omega)

theorem fitS16_eq_some {v : Int} (h0 : -32768 ≤ v) (h1 : v ≤ 32767) : fitS16 v = some (u16 v) := if_pos ⟨h0, h1⟩

theorem fitS16_eq_none {v : Int} (h : ¬ (-32768 ≤ v ∧ v ≤ 32767)) : fitS16 v = none := if_neg h

theorem expandRect_eq_none {x y w h color : Half}
    (hfit : fitS16 (s16 y + zext h - 1) = none ∨ fitS16 (s16 x + zext w - 1) = none) :
    expandRect x y w h color = none := by
  unfold expandRect
  rcases hfit with hfit | hfit <;> simp [hfit]

end Sys2Proof.Machine

/-! The obligations on the encodings (spec 30_encoding), settled. -/

namespace Sys2Proof.Machine

/-! ### Encoding -/

/-- Settles O7: a descriptor is decoded from its fields, a wire command from the one byte that is its own. -/
theorem decodeEncodeRoundTrip : Obligations.DecodeEncodeRoundTrip := by
  unfold Obligations.DecodeEncodeRoundTrip
  intro cfg i rest hd hw
  cases hi : i.format with
  | desc128 => exact decode_encode cfg rest hi hw
  | wire8 =>
    obtain ⟨b, he, hb⟩ := hd.decodeWire_encode hi
    simp [decodeIn, he, hb]

/-- Settles O8: by RSV first, then by OP. -/
theorem illegalDescriptorsAreExactlyR86 : Obligations.IllegalDescriptorsAreExactlyR86 := by
  unfold Obligations.IllegalDescriptorsAreExactlyR86
  intro d rest
  rw [decode_bytes]
  by_cases hr : d.rsv = 0#8
  · by_cases h : d.Unlisted
    · exact iff_of_true (.inr (decodeDesc_of_unlisted hr h)) (.inr h)
    · refine iff_of_false ?_ (not_or.2 ⟨not_not.2 hr, h⟩)
      rintro (hd | hd) <;> cases decodeDesc_error_of_listed hr h hd
  · exact iff_of_true (.inl (decodeDesc_of_rsv hr)) (.inl hr)

/-- Settles O9: with its OP known, the decoder is a function of RSV and the fields that operation lists. -/
theorem unusedFieldsAreIgnored : Obligations.UnusedFieldsAreIgnored := by
  unfold Obligations.UnusedFieldsAreIgnored
  intro d a0 a1 a2 a3 color len rest
  simp only [decode_bytes]
  refine ⟨?_, ?_, ?_, ?_, ?_, ?_, ?_, ?_⟩
  case refine_1 | refine_4 => rintro (h | h) <;> simp [decodeDesc, h]
  case refine_8 => intro h hbit; simp only [decodeDesc_backlight, h, hbit]
  all_goals intro h; simp [decodeDesc, h]

/-- Settles O10: a BLIT drops its payload beats, any other operation nothing. -/
theorem sizeIsDecidedByOpRsvLen : Obligations.SizeIsDecidedByOpRsvLen := by
  unfold Obligations.SizeIsDecidedByOpRsvLen
  intro d rest rest' i h
  rw [decode_bytes] at h
  obtain ⟨-, ⟨ho, -, rfl, rfl⟩ | ⟨ho, hsize, rfl, -⟩⟩ := decodeDesc_ok h
  · simp [Instr.size, beatBytes, ho]
  · simp [hsize, ho]

/-- Settles O6, by evaluation. -/
theorem specWordsDecode : Obligations.SpecWordsDecode := by
  unfold Obligations.SpecWordsDecode
  exact ⟨rfl, rfl, rfl, rfl, rfl, rfl⟩

/-! ### The step -/

/-- Settles O11: the fetch reads the descriptor and its payload, which is all that the decoder reads. -/
theorem stepRunsTheDecodedOperation : Obligations.StepRunsTheDecodedOperation := by
  unfold Obligations.StepRunsTheDecodedOperation
  exact fun s n bs rest i hidle hread hd => hidle.step_run (fetchStream_of_decode hread hd)

/-- Settles O14: BUSY tells the fetch whether the BLIT has been accepted. -/
theorem blitWaitsForItsPayload : Obligations.BlitWaitsForItsPayload := by
  unfold Obligations.BlitWaitsForItsPayload
  intro s head rest d hidle hhead hparse ho hr hpayload
  have hf := fetchStream_blit_waits hhead hparse ho hr hpayload
  refine ⟨fun hb => ?_, fun hb => ?_⟩ <;> rw [hb] at hf
  · exact hidle.step_wait hf
  · exact hidle.step_stop hf

/-- Settles O5: a legal STATUS with BUSY 0 has FATAL 0 and no event offered; accepting a BLIT touches neither. -/
theorem inReadyWhenIdle : Obligations.InReadyWhenIdle := by
  unfold Obligations.InReadyWhenIdle
  refine ⟨rfl, fun s => ⟨fun hs hb => ?_, fun hf => ?_, fun ho => ?_, ?_⟩⟩
  · obtain ⟨-, -, -, hfatal, hoffered⟩ := hs
    refine State.Good.inReady ⟨Bool.eq_false_iff.2 fun hf => ?_, Option.not_isSome_iff_eq_none.1 fun ho => ?_⟩
    · simp [hfatal hf] at hb
    · simp [(hoffered ho).1] at hb
  · simp [inReady, hf]
  · simp [inReady, Option.isNone_eq_false_iff.2 ho]
  · intro head rest d hidle hhead hparse ho hr hpayload hb
    have hf := fetchStream_blit_waits hhead hparse ho hr hpayload
    rw [hb] at hf
    refine ⟨accept s, hidle.step_wait hf, accept_busy s, ?_⟩
    obtain ⟨-, -, hfatal, hoffered⟩ := hidle
    exact State.Good.inReady ⟨by simpa using hfatal, hoffered⟩

/-! ### The assembler -/

/-- Settles O59: RECT needs its bottom row and its right column in a signed 16-bit field. -/
theorem pseudoInstructionExpansions : Obligations.PseudoInstructionExpansions := by
  unfold Obligations.PseudoInstructionExpansions
  refine ⟨rfl, fun x y n c => ⟨rfl, rfl⟩, fun m => rfl, fun x y w h c => ⟨?_, fun hout => ?_⟩⟩
  · rintro ⟨hy1, hx1, hy0, hx0⟩
    refine ⟨_, _, toInt_u16 hy0 hy1, toInt_u16 hx0 hx1, ?_⟩
    simp [Pseudo.expand, expandRect, s16, zext, fitS16_eq_some hy0 hy1, fitS16_eq_some hx0 hx1]
  · refine expandRect_eq_none ?_
    simp only [s16, zext]
    by_cases hy : -32768 ≤ y.toInt + h.toNat - 1 ∧ y.toInt + h.toNat - 1 ≤ 32767
    · exact .inr (fitS16_eq_none (by omega))
    · exact .inl (fitS16_eq_none hy)

end Sys2Proof.Machine

/-! The rules of the event trace (spec 40_transport_sequencer): which events are legal and that the pseudocode of every
operation offers only such, what an operation adds to the trace, and where a hung sequencer stops. -/

namespace Sys2Proof.Machine

/-! ### Legal events, kind by kind (R110, R112, 30_encoding R87, R88) -/

section
variable (cfg : Params)

@[simp] theorem Event.legal_command (c : Byte) : (Event.xfer false [c]).Legal cfg ↔ c ∈ sentCommands cfg := by
  simp [Event.Legal]

@[simp] theorem Event.legal_data (bytes : List Byte) : (Event.xfer true bytes).Legal cfg ↔ bytes ≠ [] := Iff.rfl

@[simp] theorem Event.legal_rst (level : Bool) : (Event.rst level).Legal cfg := trivial

@[simp] theorem Event.legal_bl (level : Bool) : (Event.bl level).Legal cfg := trivial

@[simp] theorem Event.legal_delay (ms : Nat) : (Event.delay ms).Legal cfg ↔ 0 < ms := Iff.rfl

/-! ### The events of the pseudocode are legal -/

/-- All of these events are legal. -/
def LegalEvents (es : List Event) : Prop := ∀ e ∈ es, e.Legal cfg

@[simp] theorem legalEvents_nil : LegalEvents cfg [] := List.forall_mem_nil _

@[simp] theorem legalEvents_cons (e : Event) (es : List Event) :
    LegalEvents cfg (e :: es) ↔ e.Legal cfg ∧ LegalEvents cfg es := List.forall_mem_cons

@[simp] theorem legalEvents_append (es fs : List Event) :
    LegalEvents cfg (es ++ fs) ↔ LegalEvents cfg es ∧ LegalEvents cfg fs := List.forall_mem_append

@[simp] theorem be16_ne_nil (c : Half) : be16 c ≠ [] := List.cons_ne_nil _ _

theorem rep_be16_ne_nil (c : Half) {n : Nat} (hn : 0 < n) : rep (be16 c) n ≠ [] := by
  rw [← List.length_pos_iff, length_rep]
  exact Nat.mul_pos hn Nat.two_pos

@[simp] theorem legal_windowEvents (ox oy : Half) (x0 y0 x1 y1 : Int) :
    LegalEvents cfg (windowEvents cfg ox oy x0 y0 x1 y1) := by
  simp [windowEvents, sentCommands]

@[simp] theorem legal_pixelEvents (ox oy : Half) (x y : Int) (c : Half) :
    LegalEvents cfg (pixelEvents cfg ox oy x y c) := by
  simp [pixelEvents, sentCommands]

@[simp] theorem legal_plotEvents (ox oy : Half) (points : List (Int × Int)) (c : Half) :
    LegalEvents cfg (plotEvents cfg ox oy points c) := by
  intro e he
  obtain ⟨p, -, hp⟩ := List.mem_flatMap.1 he
  exact legal_pixelEvents cfg ox oy p.1 p.2 c e hp

/-- No chunk of whole pixels is empty: the remainder is sent only where there is one (42_pixel_region R155). -/
theorem legal_chunkEvents {n : Nat} (hn : n % 2 = 0) (c : Half) : LegalEvents cfg (chunkEvents n c) := by
  rw [chunkEvents_eq, legalEvents_append]
  constructor
  · intro e he
    obtain ⟨-, rfl⟩ := List.mem_replicate.1 he
    exact rep_be16_ne_nil c (by decide)
  · split
    · simp
    · have hrem : rep (be16 c) (n % 256 / 2) ≠ [] := rep_be16_ne_nil c (by omega)
      simp [hrem]

@[simp] theorem legal_fillEvents (ox oy : Half) (x y : Int) (w h : Nat) (c : Half) :
    LegalEvents cfg (fillEvents cfg ox oy x y w h c) := by
  have hchunks := legal_chunkEvents cfg (n := regionBytes w h) (Nat.mul_mod_left ..) c
  simp [fillEvents, sentCommands, hchunks]

/-- An empty payload is no transfer at all (42_pixel_region R153). -/
@[simp] theorem legal_blitEvents (ox oy : Half) (x y : Int) (w h : Nat) (payload : List Byte) :
    LegalEvents cfg (blitEvents cfg ox oy x y w h payload) := by
  have hpayload : LegalEvents cfg (if payload = [] then [] else [.xfer true payload]) := by
    split
    · simp
    · simpa
  simp [blitEvents, sentCommands, hpayload]

@[simp] theorem legal_orientationEvents (m : BitVec 3) : LegalEvents cfg (orientationEvents cfg m) := by
  simp [orientationEvents, sentCommands]

@[simp] theorem legal_initEvents (m : BitVec 3) : LegalEvents cfg (initEvents cfg m) := by
  simp [initEvents, sentCommands, Config.tRst, Config.tSwreset, Config.tSlpout]

end

@[simp] theorem blitScript_events (cfg : Params) (x y : Int) (w h : Nat) (payload : List Byte) (s : State) :
    scriptEvents (blitScript cfg x y w h payload) s = blitEvents cfg s.ox s.oy x y w h payload := by
  simp [blitScript, blitEvents]

/-- Every event of every operation's pseudocode is legal. -/
theorem legal_script_events {i : Instr} {s : State} {ms : List Stmt} (hs : script i s = some ms) :
    LegalEvents s.params (scriptEvents ms s) := by
  cases i with
  | init | setMode =>
    obtain ⟨m, -, rfl⟩ := Option.map_eq_some_iff.1 hs
    simp [initScript_events]
  | blit =>
    simp only [script] at hs
    split at hs
    · cases hs
    · cases hs; simp
  | setWindow | fillRect | clear | pixel | line | circle => cases hs; simp
  | backlight => cases hs; simp [scriptEvents_cons, Stmt.event]
  | _ => cases hs

/-! ### What an operation adds to the trace -/

theorem mem_scriptEvents_of_event {ms₁ ms₂ : List Stmt} {m : Stmt} {s : State} {e : Event}
    (he : m.event (scriptWrites ms₁ s) = some e) : e ∈ scriptEvents (ms₁ ++ m :: ms₂) s := by
  simp [scriptEvents_cons, he]

theorem rejected_trace (i : Instr) (s : State) : (rejected i s).trace = s.trace := by
  unfold rejected
  split <;> rfl

/-- An operation only adds to the trace, and only events of its pseudocode; the one it marks failed, if any, can fail
(R111). -/
theorem exec_trace {s t : State} (i : Instr) (hi : i.format = .desc128) (he : exec i s = .next t) :
    ∃ new, t.trace = s.trace ++ new ∧ ∀ x ∈ new, (∃ ms, script i s = some ms ∧ x.event ∈ scriptEvents ms s) ∧
      (x.failed = true → x.event.canFail = true) := by
  rcases exec_desc_cases i s t hi he with
    ⟨ms, hs, rfl⟩ | ⟨ms₁, m, ms₂, e, a, rest, hs, hev, -, hstop⟩ | ⟨-, rfl⟩
  · refine ⟨accepted (scriptEvents ms s), by simp, ?_⟩
    simpa [accepted] using fun e he => ⟨ms, hs, he⟩
  · have hpre : ∀ x ∈ accepted (scriptEvents ms₁ s),
        (∃ ms, script i s = some ms ∧ x.event ∈ scriptEvents ms s) ∧ (x.failed = true → x.event.canFail = true) := by
      simpa [accepted] using fun e he => ⟨_, hs, by rw [scriptEvents_append]; exact List.mem_append_left _ he⟩
    rcases hstop with ⟨-, rfl⟩ | ⟨-, hc, rfl⟩ | ⟨-, rfl⟩
    · exact ⟨_, by simp, hpre⟩
    · refine ⟨accepted (scriptEvents ms₁ s) ++ [{ event := e, failed := true }], by simp, ?_⟩
      rw [List.forall_mem_append, List.forall_mem_singleton]
      exact ⟨hpre, ⟨_, hs, mem_scriptEvents_of_event hev⟩, fun _ => hc⟩
    · exact ⟨_, by simp, hpre⟩
  · exact ⟨[], by simp [rejected_trace], by simp⟩

/-- Legal events added to a legal trace leave it legal. -/
theorem TraceInv.extend {s t : State} (h : TraceInv s) {new : List Emitted} (ht : t.trace = s.trace ++ new)
    (hp : t.params = s.params)
    (hnew : ∀ x ∈ new, x.event.Legal s.params ∧ (x.failed = true → x.event.canFail = true)) : TraceInv t := by
  unfold TraceInv
  rw [ht, hp, List.forall_mem_append]
  exact ⟨h, hnew⟩

theorem TraceInv.exec {s t : State} (h : TraceInv s) (i : Instr) (hi : i.format = .desc128)
    (he : exec i s = .next t) : TraceInv t := by
  obtain ⟨new, ht, hnew⟩ := exec_trace i hi he
  obtain ⟨-, hp, -⟩ := exec_memories i hi he
  refine h.extend ht hp fun x hx => ?_
  obtain ⟨⟨ms, hs, hmem⟩, hfail⟩ := hnew x hx
  exact ⟨legal_script_events hs _ hmem, hfail⟩

/-! ### A hung sequencer -/

theorem fetch_of_stalled {s : State} (hf : s.fatal = false) (ho : s.offered.isSome = true) :
    fetch s = .stop .eventStalled := by
  simp [fetch, hf, ho]

/-- With the wire empty and an event on the port that was not answered there is no further step (R111 b, 70_reset
R264). -/
theorem step_of_stalled {s : State} (hr : s.resetRequest = false) (hf : s.fatal = false)
    (ho : s.offered.isSome = true) : step { s with wire := [] } = .fault .eventStalled := by
  have hfetch : fetch { s with wire := [] } = .stop .eventStalled := fetch_of_stalled hf ho
  rw [step, if_neg (by simp [hr])]
  simp only [hfetch]

end Sys2Proof.Machine

/-! The obligations on the transport sequencer (spec 40_transport_sequencer), settled. -/

namespace Sys2Proof.Machine

/-- Settles O57: only an operation adds to the trace, and it adds events of its pseudocode, all of them legal. -/
theorem stepKeepsTheTraceLegal : Obligations.StepKeepsTheTraceLegal := by
  unfold Obligations.StepKeepsTheTraceLegal
  intro s t hs h
  rcases step_cases s t h with ⟨-, rfl⟩ | ⟨item, rest, -, rfl⟩ | ⟨-, -, -, ⟨i, hi, he⟩ | rfl | rfl⟩
  · exact hs
  · exact hs
  · exact hs.exec i hi he
  · exact hs
  · exact hs

/-- Settles O33: the accepted run of `ms₁` leaves its writes and events, and the failed emit is the next answer's. -/
theorem prefixOfThePseudocode : Obligations.PrefixOfThePseudocode := by
  unfold Obligations.PrefixOfThePseudocode
  intro ms₁ ms₂ m s u e rest hu he hc hans
  rw [runScript_accepting ms₁ _ (by simp [State.Accepting]), scriptEvents_withAnswers, Flow.go.injEq,
    scriptWrites_withAnswers] at hu
  subst hu
  have hev : m.event (scriptWrites ms₁ s) = some e := by
    rw [event_emitted] at he
    rw [← he]; cases m <;> rfl
  rw [runScript_ends ms₁ ms₂ m s e .fail rest hev (.inr (.inl ⟨rfl, hc⟩)) (by simpa using hans), scriptWrites_append]
  cases m <;> rfl

/-- Settles O35: the operation is cut short at the event it offers, which stays on the port and blocks the fetch. -/
theorem stalledEventHangsTheSequencer : Obligations.StalledEventHangsTheSequencer := by
  unfold Obligations.StalledEventHangsTheSequencer
  intro i s u es k e rest hi hf hr hu htr hk hans
  obtain ⟨ms, m, hex, hev⟩ := exec_ends i s u es k e .stall rest hi hu htr hk (.inl rfl) hans
  refine ⟨_, hex, ?_⟩
  simp only [giveUp]
  refine ⟨by simp [hev], rfl, by simp, by simp, by simp, by simp, ?_⟩
  exact step_of_stalled (by simpa using hr) (by simpa using hf) rfl

/-- Settles O27: BACKLIGHT is the one statement `emit BL(on)`, whose write comes before its event is offered. -/
theorem backlightDrivesTheLine : Obligations.BacklightDrivesTheLine := by
  unfold Obligations.BacklightDrivesTheLine
  intro on s
  refine ⟨fun h => ?_, fun rest h => ?_⟩
  · rw [exec_desc _ s rfl]
    simp only [script]
    rw [runOperation_accepting _ _ s h]
    rfl
  · have hrun : runOperation 16 [.bl on] s = failTransport (.bl on) (stoppedAt [] (.bl on) rest s) :=
      runOperation_ends 16 [] [] (.bl on) s (.bl on) .fail rest rfl (.inr (.inl ⟨rfl, rfl⟩)) h
    refine ⟨_, (exec_desc _ s rfl).trans (congrArg _ hrun), rfl, ?_⟩
    simp [accepted]

end Sys2Proof.Machine

/-! The rules of bring-up and orientation (spec 41_panel_control): the mode operand, what INIT and SET_MODE do under an
environment that accepts, and what an operation can and cannot change under one that gives up on an event. -/

namespace Sys2Proof.Machine

/-! ### The mode operand (30_encoding R82) -/

/-- An operand from 0 to 7 names the mode of the same number: its low three bits are all of it. -/
theorem modeOperand_of_valid {a0 : Half} (h0 : 0 ≤ a0.toInt) (h7 : a0.toInt ≤ 7) :
    ∃ m : BitVec 3, modeOperand a0 = some m ∧ (m.toNat : Int) = a0.toInt := by
  have hvalid : 0 ≤ s16 a0 ∧ s16 a0 < Config.nModes := ⟨h0, Int.lt_add_one_of_le h7⟩
  refine ⟨_, if_pos hvalid, ?_⟩
  simp only [s16, BitVec.toNat_ofInt]
  omega

/-! ### INIT and SET_MODE, every event accepted (R140, R142) -/

/-- The last coordinate of a frame side, as the window shadow holds it: 16-bit subtraction is that of the integers. -/
theorem u16_toNat_sub_one (v : Half) : u16 ((v.toNat : Int) - 1) = v - 1#16 := by
  apply BitVec.eq_of_toNat_eq
  simp only [u16, BitVec.toNat_ofInt, BitVec.toNat_sub, BitVec.toNat_ofNat]
  omega

/-- The registers after bring-up, one by one (R140). -/
theorem broughtUp_eq (m : BitVec 3) (s : State) : broughtUp m s =
    { s with
      mode := m, ox := (frameOf m).ox, fw := (frameOf m).fw, oy := (frameOf m).oy, fh := (frameOf m).fh,
      winXs := 0#16, winYs := 0#16, winXe := (frameOf m).fw - 1#16, winYe := (frameOf m).fh - 1#16,
      status := putBit 1 true s.status, tbuf := tbufOf 0#16, rstOut := false } := by
  rw [← u16_toNat_sub_one, ← u16_toNat_sub_one]
  rfl

/-- Both frames have the same number of pixels, so the clear of INIT has the same size in every mode. -/
theorem regionBytes_frameOf (m : BitVec 3) : regionBytes (frameOf m).fw.toNat (frameOf m).fh.toNat = 108800 := by
  unfold frameOf
  split <;> rfl

/-- The clear takes 425 of the 447 events: 108800 bytes are 425 full Transfer Buffers and no remainder (R118, R140,
42_pixel_region R155). -/
theorem length_initEvents (cfg : Params) (m : BitVec 3) : (initEvents cfg m).length = 447 := by
  have hclear : (chunkEvents 108800 Config.black).length = 425 := by
    rw [chunkEvents_eq, if_pos (by decide), List.append_nil, List.length_replicate]
  simp [initEvents, orientationEvents, fillEvents, windowEvents, regionBytes_frameOf, hclear]

section
variable {mode : Half} {m : BitVec 3} {s : State} (hm : modeOperand mode = some m) (hs : s.Accepting)
include hm hs

theorem exec_init_accepting :
    exec (.init mode) s = .next (((broughtUp m s).emitted (initEvents s.params m)).ended .ok 16) := by
  have hscript : script (.init mode) s = some (initScript s.params m) := congrArg (Option.map _) hm
  rw [exec_desc (.init mode) s rfl, hscript]
  simp only [runOperation_accepting _ _ s hs, initScript_writes, initScript_events, Instr.size]

theorem exec_setMode_accepting :
    exec (.setMode mode) s = .next (((s.inMode m).emitted (orientationEvents s.params m)).ended .ok 16) := by
  have hscript : script (.setMode mode) s = some (setFrame s.params m) := congrArg (Option.map _) hm
  rw [exec_desc (.setMode mode) s rfl, hscript]
  simp only [runOperation_accepting _ _ s hs, setFrame_writes, setFrame_events, Instr.size]

end

/-! ### What surrounds the registers, under any environment -/

theorem exec_desc_next {i : Instr} (s : State) (hi : i.format = .desc128) : ∃ t, exec i s = .next t :=
  ⟨_, exec_desc i s hi⟩

section
variable {s t : State} (i : Instr) (hi : i.format = .desc128) (he : exec i s = .next t)
include hi he

/-- What was handed to the Transport Adapter stays handed over, the reset input included (70_reset R255). -/
theorem exec_wire_prefix : s.wire <+: t.wire := by
  rcases exec_desc_cases i s t hi he with
    ⟨ms, -, rfl⟩ | ⟨ms, m, -, e, -, rest, -, -, -, ⟨-, rfl⟩ | ⟨-, -, rfl⟩ | ⟨-, rfl⟩⟩ | ⟨-, rfl⟩
  · simp
  · simp
  · simp
  · simp
  · unfold rejected
    split <;> simp

/-- What every operation leaves of the stream, the panel, the parameters, the trace and the wire. -/
theorem exec_surroundings :
    t.stream = s.stream ∧ t.panel = s.panel ∧ t.params = s.params ∧ s.trace <+: t.trace ∧ s.wire <+: t.wire := by
  obtain ⟨hstream, hparams, hpanel⟩ := exec_memories i hi he
  obtain ⟨new, htrace, -⟩ := exec_trace i hi he
  exact ⟨hstream, hpanel, hparams, htrace ▸ List.prefix_append .., exec_wire_prefix i hi he⟩

end

/-! ### Registers that only the pseudocode writes -/

/-- A reading `f` of the state (a register, several at once) that accepting a descriptor, an event and its answer, and
an end with status OK or TRANSPORT_FAIL leave alone: in an operation only the statements' writes change it. -/
structure Reading {α : Type} (f : State → α) : Prop where
  emitted : ∀ es s, f (s.emitted es) = f s
  ended : ∀ n s, f (s.ended .ok n) = f s
  accept : ∀ rest s, f { accept s with answers := rest } = f s
  stallOn : ∀ e s, f (stallOn e s) = f s
  failTransport : ∀ e s, f (failTransport e s) = f s

theorem Reading.prod {α β : Type} {f : State → α} {g : State → β} (hf : Reading f) (hg : Reading g) :
    Reading fun s => (f s, g s) where
  emitted es s := Prod.ext (hf.emitted es s) (hg.emitted es s)
  ended n s := Prod.ext (hf.ended n s) (hg.ended n s)
  accept rest s := Prod.ext (hf.accept rest s) (hg.accept rest s)
  stallOn e s := Prod.ext (hf.stallOn e s) (hg.stallOn e s)
  failTransport e s := Prod.ext (hf.failTransport e s) (hg.failTransport e s)

/-- The bits of STATUS that are not BUSY, FATAL or part of LAST (10_state R26). -/
theorem reading_status_bit (k : Nat) (hk : k = 1 ∨ k = 3 ∨ k = 7) : Reading fun s => s.status.getLsbD k where
  emitted _ _ := rfl
  ended _ _ := by rcases hk with rfl | rfl | rfl <;> simp [endStatus]
  accept _ _ := by rcases hk with rfl | rfl | rfl <;> simp
  stallOn _ _ := rfl
  failTransport _ _ := by rcases hk with rfl | rfl | rfl <;> simp

theorem reading_initDone : Reading State.initDone := reading_status_bit 1 (.inl rfl)

theorem reading_diagMode : Reading State.diagMode := reading_status_bit 3 (.inr (.inl rfl))

/-- A reading has the value `v` after an operation, wherever it is given up short of a reset, if the writes give it
that value: all of them, and those up to each statement an event could stop. -/
theorem Reading.exec_eq {α : Type} {f : State → α} (hf : Reading f) {s t : State} {i : Instr}
    (hi : i.format = .desc128) (hn : s.NoReset) (he : exec i s = .next t) {v : α}
    (hrej : script i s = none → f (rejected i s) = v)
    (hall : ∀ ms, script i s = some ms → f (scriptWrites ms s) = v)
    (hpre : ∀ ms₁ m ms₂, script i s = some (ms₁ ++ m :: ms₂) → f (scriptWrites (ms₁ ++ [m]) s) = v) : f t = v := by
  obtain ⟨t', he', h⟩ := exec_frame (fun u => f u = v) i s hi hn hrej hall hpre
    (fun u es h => (hf.emitted es u).trans h) (fun u n h => (hf.ended n u).trans h)
    (fun ms m rest h => ((hf.accept rest _).trans (hf.emitted _ _)).trans h)
    (fun u e h => (hf.stallOn e u).trans h) (fun u e h => (hf.failTransport e u).trans h)
  rw [he, Host.Outcome.next.injEq] at he'
  exact he' ▸ h

/-- What none of these statements writes is as it was after them. -/
theorem scriptWrites_keeps_of_mem {α : Type} (f : State → α) {ms : List Stmt}
    (h : ∀ m ∈ ms, ∀ s, f (m.write s) = f s) (s : State) : f (scriptWrites ms s) = f s := by
  induction ms generalizing s with
  | nil => rfl
  | cons m ms ih =>
    obtain ⟨hm, hms⟩ := List.forall_mem_cons.1 h
    rw [scriptWrites_cons, ih hms, hm]

/-- A reading that no statement of the pseudocode writes, and no rejection, is as it was after the operation. -/
theorem Reading.exec_keeps {α : Type} {f : State → α} (hf : Reading f) {s t : State} {i : Instr}
    (hi : i.format = .desc128) (hn : s.NoReset) (he : exec i s = .next t) (hrej : f (rejected i s) = f s)
    (hw : ∀ ms, script i s = some ms → ∀ m ∈ ms, ∀ u, f (m.write u) = f u) : f t = f s := by
  refine hf.exec_eq hi hn he (fun _ => hrej) (fun ms h => scriptWrites_keeps_of_mem f (hw ms h) s)
    fun ms₁ m ms₂ h => ?_
  rw [List.append_cons] at h
  exact scriptWrites_keeps_of_mem f (fun n hmem => hw _ h n (List.mem_append_left ms₂ hmem)) s

/-! ### What SET_MODE, INIT and BACKLIGHT leave unchanged (R141, R144, 40_transport R117, R119) -/

/-- SET_MODE sets no window and drives no line; a rejected one writes DIAG_MODE and ends. -/
theorem setMode_keeps {s t : State} {mode : Half} (hn : s.NoReset) (he : exec (.setMode mode) s = .next t) :
    t.winXs = s.winXs ∧ t.winYs = s.winYs ∧ t.winXe = s.winXe ∧ t.winYe = s.winYe ∧ t.rstOut = s.rstOut ∧
      t.blOut = s.blOut ∧ t.initDone = s.initDone := by
  have hregs : Reading fun s => (s.winXs, s.winYs, s.winXe, s.winYe, s.rstOut, s.blOut) :=
    ⟨by simp, by simp, by simp, by simp, by simp⟩
  have hkeeps := (hregs.prod reading_initDone).exec_keeps rfl hn he ?_ ?_
  · simpa only [Prod.mk.injEq, and_assoc] using hkeeps
  · simp [rejected, endStatus, State.initDone]
  · intro ms h
    obtain ⟨m, -, rfl⟩ := Option.map_eq_some_iff.1 h
    simp [setFrame, cmdData, cmd, data, Stmt.write, State.initDone]

/-- Only `emit BL` writes BL_OUT (40_transport R117). -/
theorem write_blOut {m : Stmt} (h : ∀ on, m ≠ .bl on) (s : State) : (m.write s).blOut = s.blOut := by
  cases m with
  | bl on => exact absurd rfl (h on)
  | _ => rfl

/-- Bring-up leaves the backlight to the caller (R144). -/
theorem bl_notMem_initScript (cfg : Params) (m : BitVec 3) (on : Bool) : Stmt.bl on ∉ initScript cfg m := by
  have hchunks (n : Nat) : Stmt.bl on ∉ chunks n := by
    unfold chunks
    split <;> simp
  simp [initScript, fill, region, setWin, setFrame, cmdData, cmd, data, hwReset, hchunks]

theorem init_keeps_blOut {s t : State} {mode : Half} (hn : s.NoReset) (he : exec (.init mode) s = .next t) :
    t.blOut = s.blOut := by
  have hbl : Reading State.blOut := ⟨by simp, by simp, by simp, by simp, by simp⟩
  refine hbl.exec_keeps rfl hn he rfl fun ms h n hmem u => ?_
  obtain ⟨m, -, rfl⟩ := Option.map_eq_some_iff.1 h
  exact write_blOut (fun on hon => bl_notMem_initScript _ m on (hon ▸ hmem)) u

/-- BACKLIGHT has written BL_OUT, and nothing else a reading could see, before its one event can stop it. -/
theorem Reading.exec_backlight {α : Type} {f : State → α} (hf : Reading f) {s t : State} {on : Bool} (hn : s.NoReset)
    (he : exec (.backlight on) s = .next t) : f t = f { s with blOut := on } := by
  refine hf.exec_eq rfl hn he (fun h => nomatch h) (fun ms h => ?_) (fun ms₁ m ms₂ h => ?_)
  · cases h; rfl
  · cases ms₁ with
    | nil => cases h; rfl
    | cons _ ms₁ => cases ms₁ <;> cases h

theorem backlight_keeps {s t : State} {on : Bool} (hn : s.NoReset) (he : exec (.backlight on) s = .next t) :
    t.mode = s.mode ∧ t.ox = s.ox ∧ t.fw = s.fw ∧ t.oy = s.oy ∧ t.fh = s.fh ∧ t.winXs = s.winXs ∧
      t.winYs = s.winYs ∧ t.winXe = s.winXe ∧ t.winYe = s.winYe ∧ t.tbuf = s.tbuf ∧ t.rstOut = s.rstOut ∧
      t.blOut = on ∧ t.initDone = s.initDone ∧ t.diagMode = s.diagMode := by
  have hregs : Reading fun s => (s.mode, s.ox, s.fw, s.oy, s.fh, s.winXs, s.winYs, s.winXe, s.winYe, s.tbuf, s.rstOut,
      s.blOut) := ⟨by simp, by simp, by simp, by simp, by simp⟩
  have hkeeps := (hregs.prod (reading_initDone.prod reading_diagMode)).exec_backlight hn he
  simpa only [Prod.mk.injEq, and_assoc, State.initDone, State.diagMode] using hkeeps

end Sys2Proof.Machine

/-! The obligations on bring-up, orientation and the backlight (spec 41_panel_control), settled. -/

namespace Sys2Proof.Machine

/-- Settles O16: the pseudocode runs to its end, its writes are `broughtUp` and its events `initEvents`. -/
theorem initBringsThePanelUp : Obligations.InitBringsThePanelUp := by
  unfold Obligations.InitBringsThePanelUp
  intro mode s hs h0 h7
  obtain ⟨m, hm, hval⟩ := modeOperand_of_valid h0 h7
  refine ⟨m, hval, length_initEvents s.params m, ?_⟩
  rw [exec_init_accepting hm hs, broughtUp_eq]
  rfl

/-- Settles O17: `set_frame` writes the mode with its frame and offers the two orientation transfers. -/
theorem setModeReprogramsTheFrame : Obligations.SetModeReprogramsTheFrame := by
  unfold Obligations.SetModeReprogramsTheFrame
  intro mode s hs h0 h7
  obtain ⟨m, hm, hval⟩ := modeOperand_of_valid h0 h7
  exact ⟨m, hval, exec_setMode_accepting hm hs⟩

/-- Settles O32: no statement of the three operations writes what they leave, and BACKLIGHT's one write comes before
its event. -/
theorem controlFrame : Obligations.ControlFrame := by
  unfold Obligations.ControlFrame
  intro s hn
  refine ⟨fun m => ?_, fun m => ?_, fun on => ?_⟩
  · obtain ⟨t, he⟩ := exec_desc_next (i := .setMode m) s rfl
    exact ⟨t, he, by simp [setMode_keeps hn he, exec_surroundings _ rfl he]⟩
  · obtain ⟨t, he⟩ := exec_desc_next (i := .init m) s rfl
    exact ⟨t, he, init_keeps_blOut hn he, exec_surroundings _ rfl he⟩
  · obtain ⟨t, he⟩ := exec_desc_next (i := .backlight on) s rfl
    exact ⟨t, he, by simp [backlight_keeps hn he, exec_surroundings _ rfl he]⟩

end Sys2Proof.Machine

/-! The rules of the pixel-region operations (spec 42_pixel_region): an operation under an environment that accepts, the
chunks of a fill, the translated end of an empty region, and what no drawing operation writes. -/

namespace Sys2Proof.Machine

/-! ### An operation, every event accepted -/

/-- An operation that is not rejected makes all the writes of its pseudocode, emits all its events and ends OK. -/
theorem exec_accepting {i : Instr} {s : State} {ms : List Stmt} (hi : i.format = .desc128) (hsc : script i s = some ms)
    (hs : s.Accepting) :
    exec i s = .next (((scriptWrites ms s).emitted (scriptEvents ms s)).ended .ok i.size) := by
  rw [exec_desc i s hi, hsc]
  simp only [runOperation_accepting _ _ s hs]

@[simp] theorem blitScript_writes (cfg : Params) (x y : Int) (w h : Nat) (payload : List Byte) (s : State) :
    scriptWrites (blitScript cfg x y w h payload) s = s.window x y (x + w - 1) (y + h - 1) := by
  simp [blitScript]

/-- A BLIT whose LEN is that of its region is not rejected (R153). -/
theorem script_blit {w h : Half} {len : Word32} (hlen : len.toNat = w.toNat * h.toNat * 2) (x y : Half)
    (payload : List Byte) (s : State) :
    script (.blit x y w h len payload) s =
      some (blitScript s.params x.toInt y.toInt w.toNat h.toNat payload) :=
  if_neg (not_not_intro hlen)

theorem exec_fillRect_accepting (x y w h c : Half) {s : State} (hs : s.Accepting) :
    exec (.fillRect x y w h c) s = .next ((({ s.window x.toInt y.toInt (x.toInt + w.toNat - 1)
        (y.toInt + h.toNat - 1) with tbuf := tbufOf c } : State).emitted
      (fillEvents s.params s.ox s.oy x.toInt y.toInt w.toNat h.toNat c)).ended .ok 16) := by
  rw [exec_accepting rfl rfl hs, fill_writes, fill_events]
  rfl

theorem exec_blit_accepting (x y : Half) {w h : Half} {len : Word32} (payload : List Byte) {s : State}
    (hs : s.Accepting) (hlen : len.toNat = w.toNat * h.toNat * 2) :
    exec (.blit x y w h len payload) s = .next (((s.window x.toInt y.toInt (x.toInt + w.toNat - 1)
        (y.toInt + h.toNat - 1)).emitted
      (blitEvents s.params s.ox s.oy x.toInt y.toInt w.toNat h.toNat payload)).ended .ok
        (16 + beatBytes len.toNat)) := by
  rw [exec_accepting rfl (script_blit hlen x y payload s) hs, blitScript_writes, blitScript_events]
  rfl

/-! ### The chunks of a fill (R155) -/

theorem length_rep_be16 (c : Half) (n : Nat) : (rep (be16 c) n).length = n * 2 := length_rep (be16 c) n

theorem rep_rep {α : Type} (l : List α) (m n : Nat) : rep (rep l m) n = rep l (n * m) := by
  rw [rep, rep, rep, ← List.flatten_replicate_replicate, List.flatten_flatten, List.map_replicate]

theorem length_chunkEvents (n : Nat) (c : Half) : (chunkEvents n c).length = (n + 255) / 256 := by
  rw [chunkEvents_eq, List.length_append, List.length_replicate]
  split
  · rw [List.length_nil]; omega
  · rw [List.length_singleton]; omega

/-- A chunk is a full buffer, or the remainder of whole pixels. -/
theorem mem_chunkEvents {n : Nat} {c : Half} {e : Event} (he : e ∈ chunkEvents n c) :
    e = .xfer true (rep (be16 c) 128) ∨ (n % 256 ≠ 0 ∧ e = .xfer true (rep (be16 c) (n % 256 / 2))) := by
  rw [chunkEvents_eq, List.mem_append] at he
  rcases he with he | he
  · exact .inl (List.eq_of_mem_replicate he)
  · split at he
    · cases he
    · exact .inr ⟨‹_›, List.mem_singleton.1 he⟩

theorem flat_append (es fs : List Event) : flat (es ++ fs) = flat es ++ flat fs := List.flatMap_append

theorem flat_singleton_data (bytes : List Byte) : flat [.xfer true bytes] = bytes.map fun b => .inl (true, b) :=
  List.flatMap_singleton ..

theorem flat_replicate_data (k : Nat) (bytes : List Byte) :
    flat (List.replicate k (.xfer true bytes)) = (rep bytes k).map fun b => .inl (true, b) := by
  rw [flat, List.flatMap_replicate, rep, List.map_flatten, List.map_replicate]
  rfl

/-- Flattened, the chunks of a fill are the colour over and over: where they are cut is invisible (20_memory R74). -/
theorem flat_chunkEvents {n : Nat} (hn : n % 2 = 0) (c : Half) :
    flat (chunkEvents n c) = (rep (be16 c) (n / 2)).map fun b => .inl (true, b) := by
  have hrest : flat (if n % 256 = 0 then [] else [.xfer true (rep (be16 c) (n % 256 / 2))]) =
      (rep (be16 c) (n % 256 / 2)).map fun b => .inl (true, b) := by
    split
    · rename_i h0; rw [h0]; rfl
    · exact flat_singleton_data _
  have hpixels : n / 2 = n / 256 * 128 + n % 256 / 2 := by omega
  rw [chunkEvents_eq, flat_append, flat_replicate_data, rep_rep, hrest, ← List.map_append, ← rep_add, hpixels]

/-! ### Translated coordinates (20_memory R58) -/

theorem u16_add_nat (v : Int) (i : Nat) : u16 (v + i) = u16 v + BitVec.ofNat 16 i := by
  rw [u16, BitVec.ofInt_add, BitVec.ofInt_natCast, u16]

theorem tx_add_nat (s : State) (v : Int) (i : Nat) : tx s (v + i) = tx s v + BitVec.ofNat 16 i := by
  rw [tx, Int.add_right_comm, u16_add_nat, tx]

theorem ty_add_nat (s : State) (v : Int) (i : Nat) : ty s (v + i) = ty s v + BitVec.ofNat 16 i := by
  rw [ty, Int.add_right_comm, u16_add_nat, ty]

theorem tx_sub_one (s : State) (v : Int) : tx s (v - 1) = tx s v - 1#16 := by
  have h := tx_add_nat s (v - 1) 1
  rw [Nat.cast_one, Int.sub_add_cancel] at h
  exact eq_sub_of_add_eq h.symm

/-! ### What no drawing operation writes -/

/-- The statements the drawing operations are made of: they write the window shadow or TBUF, or only send. -/
def Stmt.draws : Stmt → Bool
  | .writeWindow .. | .refill _ | .xfer .. | .columns .. | .rows .. | .tbufChunk _ => true
  | .writeFrame _ | .writeInitDone | .rst _ | .bl _ | .delay _ => false

/-- The seven operations that draw: those of 42_pixel_region and 43_rasterizer. -/
def isDrawing : Instr → Bool
  | .setWindow .. | .blit .. | .fillRect .. | .pixel .. | .clear _ | .line .. | .circle .. => true
  | _ => false

theorem format_of_isDrawing {i : Instr} (hi : isDrawing i = true) : i.format = .desc128 := by
  cases i with
  | setWindow | blit | fillRect | pixel | clear | line | circle => rfl
  | _ => cases hi

theorem data_draws (bytes : List Byte) : (data bytes).all Stmt.draws = true := by
  unfold data
  split <;> rfl

theorem chunks_draws (n : Nat) : (chunks n).all Stmt.draws = true := by
  unfold chunks
  rw [List.all_append, List.all_replicate]
  split <;> simp [Stmt.draws]

theorem fill_draws (cfg : Params) (x y : Int) (w h : Nat) (c : Half) : (fill cfg x y w h c).all Stmt.draws = true :=
  chunks_draws _

theorem plot_draws (cfg : Params) (ps : List (Int × Int)) (c : Half) : (plot cfg ps c).all Stmt.draws = true := by
  rw [plot, List.all_flatMap, List.all_eq_true]
  exact fun p _ => rfl

/-- The pseudocode of a drawing operation is made of drawing statements. -/
theorem script_draws {i : Instr} {s : State} {ms : List Stmt} (hi : isDrawing i = true) (h : script i s = some ms) :
    ms.all Stmt.draws = true := by
  cases i with
  | setWindow | pixel => cases h; rfl
  | blit =>
    simp only [script] at h
    split at h
    · cases h
    · cases h; exact data_draws _
  | fillRect | clear => cases h; exact fill_draws ..
  | line | circle => cases h; exact plot_draws ..
  | _ => cases hi

/-- Of the drawing operations only BLIT is ever rejected, with its status alone (60_exceptions R223). -/
theorem rejected_of_isDrawing {i : Instr} {s : State} (hi : isDrawing i = true) (h : script i s = none) :
    rejected i s = s.ended .bufMismatch i.size := by
  cases i with
  | blit => rfl
  | setWindow | fillRect | pixel | clear | line | circle => cases h
  | _ => cases hi

/-- A reading that no drawing statement writes, and no wrong length, is as it was after a drawing operation. -/
theorem Reading.exec_drawing {α : Type} {f : State → α} (hf : Reading f) {s t : State} {i : Instr}
    (hi : isDrawing i = true) (hn : s.NoReset) (he : exec i s = .next t) (hrej : ∀ n, f (s.ended .bufMismatch n) = f s)
    (hw : ∀ m : Stmt, m.draws = true → ∀ u, f (m.write u) = f u) : f t = f s := by
  have hkeeps : ∀ ms, ms.all Stmt.draws = true → f (scriptWrites ms s) = f s := fun ms hms =>
    scriptWrites_keeps_of_mem f (fun m hm => hw m (List.all_eq_true.1 hms m hm)) s
  refine hf.exec_eq (format_of_isDrawing hi) hn he (fun h => ?_) (fun ms h => hkeeps ms (script_draws hi h))
    fun ms₁ m ms₂ h => hkeeps _ ?_
  · rw [rejected_of_isDrawing hi h]; exact hrej _
  · have hall := script_draws hi h
    rw [List.append_cons, List.all_append, Bool.and_eq_true] at hall
    exact hall.1

/-- The registers a drawing operation leaves alone: MODE and the Frame Window, the output levels, the reset request. -/
def undrawnRegisters (s : State) : BitVec 3 × Half × Half × Half × Half × Bool × Bool × Bool :=
  (s.mode, s.ox, s.fw, s.oy, s.fh, s.rstOut, s.blOut, s.resetRequest)

/-- The bits of STATUS a drawing operation leaves alone: INIT_DONE, DIAG_MODE and the reserved bit. -/
def undrawnStatus (s : State) : Bool × Bool × Bool := (s.initDone, s.diagMode, s.status.getLsbD 7)

theorem reading_undrawnRegisters : Reading undrawnRegisters where
  emitted _ _ := by simp [undrawnRegisters]
  ended _ _ := by simp [undrawnRegisters]
  accept _ _ := by simp [undrawnRegisters]
  stallOn _ _ := by simp [undrawnRegisters]
  failTransport _ _ := by simp [undrawnRegisters]

theorem reading_undrawnStatus : Reading undrawnStatus :=
  reading_initDone.prod (reading_diagMode.prod (reading_status_bit 7 (.inr (.inr rfl))))

theorem undrawnRegisters_write {m : Stmt} (hm : m.draws = true) (s : State) :
    undrawnRegisters (m.write s) = undrawnRegisters s := by
  cases m with
  | writeFrame | writeInitDone | rst | bl | delay => cases hm
  | _ => rfl

theorem undrawnStatus_write {m : Stmt} (hm : m.draws = true) (s : State) :
    undrawnStatus (m.write s) = undrawnStatus s := by
  cases m with
  | writeFrame | writeInitDone | rst | bl | delay => cases hm
  | _ => rfl

theorem undrawnStatus_ended (c : StatusCode) (n : Nat) (s : State) :
    undrawnStatus (s.ended c n) = undrawnStatus s := by
  simp [undrawnStatus, endStatus, State.initDone, State.diagMode]

/-- Whatever the environment answers short of a reset, a drawing operation leaves these registers and bits alone. -/
theorem exec_keeps_undrawn {s t : State} {i : Instr} (hi : isDrawing i = true) (hn : s.NoReset)
    (he : exec i s = .next t) :
    undrawnRegisters t = undrawnRegisters s ∧ undrawnStatus t = undrawnStatus s :=
  ⟨reading_undrawnRegisters.exec_drawing hi hn he (fun _ => rfl) fun _ hm => undrawnRegisters_write hm,
    reading_undrawnStatus.exec_drawing hi hn he (fun n => undrawnStatus_ended _ n s) fun _ hm => undrawnStatus_write hm⟩

end Sys2Proof.Machine

/-! The obligations on the pixel-region operations as the sequencer sees them (spec 42_pixel_region), settled. -/

namespace Sys2Proof.Machine

/-! ### The operations, every event accepted -/

/-- Settles O19: the pseudocode is `set_win` alone. -/
theorem setWindowProgramsTheWindow : Obligations.SetWindowProgramsTheWindow := by
  unfold Obligations.SetWindowProgramsTheWindow
  exact fun x0 y0 x1 y1 s hs => exec_accepting (i := .setWindow x0 y0 x1 y1) rfl rfl hs

/-- Settles O20: a right length lets the pseudocode run, and the operation's size counts the payload's beats. -/
theorem blitStreamsThePayload : Obligations.BlitStreamsThePayload := by
  unfold Obligations.BlitStreamsThePayload
  exact fun x y w h len payload s hs hlen => exec_blit_accepting x y payload hs hlen

/-- Settles O22: the chunks are taken from the TBUF that the operation has refilled first. -/
theorem fillRectStreamsTheColour : Obligations.FillRectStreamsTheColour := by
  unfold Obligations.FillRectStreamsTheColour
  exact fun x y w h c s hs => exec_fillRect_accepting x y w h c hs

/-- Settles O23: the pseudocode is one `pixel`. -/
theorem pixelWritesOnePixel : Obligations.PixelWritesOnePixel := by
  unfold Obligations.PixelWritesOnePixel
  exact fun x y c s hs => exec_accepting (i := .pixel x y c) rfl rfl hs

/-- Settles O24: the pseudocode is the fill of `(0, 0, FW, FH)`, which writes neither of the two. -/
theorem clearFillsTheFrameWindow : Obligations.ClearFillsTheFrameWindow := by
  unfold Obligations.ClearFillsTheFrameWindow
  intro c s hs
  rw [exec_accepting rfl rfl hs, fill_writes, fill_events, zero_add, zero_add]
  rfl

/-! ### What they leave alone -/

/-- Settles O30: a drawing operation is made of statements that write the window shadow and TBUF only. -/
theorem drawingFrame : Obligations.DrawingFrame := by
  unfold Obligations.DrawingFrame
  intro s hn i hi
  have hd : isDrawing i = true := by
    rcases hi with ⟨_, _, _, _, rfl⟩ | ⟨_, _, _, _, _, _, rfl⟩ | ⟨_, _, _, _, _, rfl⟩ | ⟨_, _, _, rfl⟩ | ⟨_, rfl⟩ |
      ⟨_, _, _, _, _, rfl⟩ | ⟨_, _, _, _, rfl⟩ <;> rfl
  have hfmt := format_of_isDrawing hd
  obtain ⟨t, he⟩ := exec_desc_next s hfmt
  obtain ⟨hregs, hstatus⟩ := exec_keeps_undrawn hd hn he
  obtain ⟨hstream, hpanel, hparams, htrace, hwire⟩ := exec_surroundings i hfmt he
  simp only [undrawnRegisters, undrawnStatus, Prod.mk.injEq] at hregs hstatus
  exact ⟨t, he, by simp only [*, and_self]⟩

/-! ### Chunks and empty regions -/

/-- Settles O39: full buffers and then what is left of an even number, at least two bytes. -/
theorem fillIsChunkedExactly : Obligations.FillIsChunkedExactly := by
  unfold Obligations.FillIsChunkedExactly
  refine fun n c hn => ⟨length_chunkEvents n c, fun e he => ?_, flat_chunkEvents hn c⟩
  rcases mem_chunkEvents he with rfl | ⟨hrest, rfl⟩
  · exact ⟨_, rfl, by rw [length_rep_be16]; decide, by rw [length_rep_be16]⟩
  · exact ⟨_, rfl, by rw [length_rep_be16]; omega, by rw [length_rep_be16]; omega⟩

/-- Settles O40: an empty region has no chunk and BLIT's payload of no byte is no transfer; the end of a region without a
column is its start less one, in 16 bits. -/
theorem emptyRegionSendsNoData : Obligations.EmptyRegionSendsNoData := by
  unfold Obligations.EmptyRegionSendsNoData
  intro x y w h c s hs h0
  have hchunks : chunkEvents (regionBytes w.toNat h.toNat) c = [] := by rw [regionBytes, h0]; rfl
  have hblit := exec_blit_accepting x y (len := 0#32) [] hs (by rw [h0]; rfl)
  have hend (hw : w = 0#16) : tx s (x.toInt + w.toNat - 1) = tx s x.toInt - 1#16 := by
    rw [tx_sub_one, hw]; simp
  have hsame : fillEvents s.params s.ox s.oy x.toInt y.toInt w.toNat h.toNat c =
      blitEvents s.params s.ox s.oy x.toInt y.toInt w.toNat h.toNat [] := by
    rw [fillEvents, hchunks]; rfl
  refine ⟨_, _, exec_fillRect_accepting x y w h c hs, hblit, congrArg (s.trace ++ accepted ·) hsame,
    congrArg (s.trace ++ accepted ·) hsame.symm, ended_last .., ended_last .., hend, fun hw hx => ?_⟩
  rw [hend hw, tx, zext, hx]; rfl

end Sys2Proof.Machine

/-! What the pixel-region operations paint (spec 42_pixel_region R159). On the wire a fill is the blit of its colour
repeated and a pixel the blit of one pixel, so the panel's part is proved once, for a blit's transfers: what they leave
of a panel is `Paints`, from which the three statements follow. -/

namespace Sys2Proof.Machine

/-! ### A blit, a fill and a pixel on the wire -/

/-- A blit on the wire: its window and memory-write, then its payload (R152, R153). -/
theorem flatMap_blitEvents (cfg : Params) (ox oy : Half) (x y : Int) (w h : Nat) (payload : List Byte) :
    (blitEvents cfg ox oy x y w h payload).flatMap Event.onWire =
      (windowEvents cfg ox oy x y (x + w - 1) (y + h - 1) ++ [Event.xfer false [cfg.cmdRamwr]]).flatMap Event.onWire ++
        payload.map (.byte true) := by
  rw [blitEvents, List.flatMap_append, List.append_cancel_left_eq]
  split
  · simp [*]
  · simp [Event.onWire]

/-- A fill sends what a blit of the colour repeated sends. -/
theorem flatMap_fillEvents (cfg : Params) (ox oy : Half) (x y : Int) (w h : Nat) (c : Half) :
    (fillEvents cfg ox oy x y w h c).flatMap Event.onWire =
      (blitEvents cfg ox oy x y w h ((List.replicate (w * h) c).flatMap be16)).flatMap Event.onWire := by
  rw [flatMap_blitEvents, fillEvents, List.flatMap_append, regionBytes, Config.bytesPerPixel, chunkEvents_onWire,
    rep_be16]

/-- PIXEL is a blit of one pixel (R157). -/
theorem pixelAt_eq_blitScript (cfg : Params) (x y : Int) (c : Half) :
    pixelAt cfg x y c = blitScript cfg x y 1 1 ([c].flatMap be16) := by
  simp [pixelAt, blitScript, region, cmdData]

/-! ### Payload bytes as pixels (20_memory R52, R64) -/

/-- The pixels a list of wire bytes holds, two bytes each, high byte first. -/
def pixelsOf : List Byte → List Half
  | hi :: lo :: bs => ofBe16 hi lo :: pixelsOf bs
  | _ => []

theorem be16_ofBe16 (hi lo : Byte) : be16 (ofBe16 hi lo) = [hi, lo] := by
  have hhi : hi8 (ofBe16 hi lo) = hi := BitVec.extractLsb'_append_eq_left
  have hlo : lo8 (ofBe16 hi lo) = lo := BitVec.extractLsb'_append_eq_right
  rw [be16, hhi, hlo]

theorem pixelsOf_flatMap {n : Nat} {bs : List Byte} (h : bs.length = n * 2) :
    (pixelsOf bs).flatMap be16 = bs ∧ (pixelsOf bs).length = n := by
  induction n generalizing bs with
  | zero => simp [List.eq_nil_of_length_eq_zero (h.trans (Nat.zero_mul 2)), pixelsOf]
  | succ n ih =>
    match bs, h with
    | [_], h => simp [Nat.succ_mul] at h
    | hi :: lo :: bs, h =>
      obtain ⟨hmap, hlen⟩ := ih (bs := bs) (by simpa [Nat.succ_mul] using h)
      simp [pixelsOf, be16_ofBe16, hmap, hlen]

theorem getElem?_pixelsOf {k : Nat} {bs : List Byte} {hi lo : Byte} (h0 : bs[2 * k]? = some hi)
    (h1 : bs[2 * k + 1]? = some lo) : (pixelsOf bs)[k]? = some (ofBe16 hi lo) := by
  induction k generalizing bs with
  | zero =>
    match bs, h0, h1 with
    | _ :: _ :: _, h0, h1 => simp_all [pixelsOf]
  | succ k ih =>
    match bs, h0, h1 with
    | _ :: _ :: bs, h0, h1 => exact ih (bs := bs) h0 h1

/-! ### Data the sink refuses (20_memory R64, U2) -/

/-- When the sink accepts a memory write: start not after end, the far corner inside the memory. -/
theorem Panel.windowLegal_iff (cfg : Params) (p : Panel) : p.windowLegal cfg = true ↔
    (p.xs.toNat ≤ p.xe.toNat ∧ p.ys.toNat ≤ p.ye.toNat) ∧ p.xe.toNat < cfg.panelCols ∧ p.ye.toNat < cfg.panelRows := by
  simp [Panel.windowLegal, insideMemory]

/-- Data bytes never change whether the sink has a meaning. -/
theorem Panel.feed_data_meaningful (cfg : Params) (bytes : List Byte) (p : Panel) :
    (p.feed cfg (bytes.map (.byte true))).meaningful = p.meaningful := by
  induction bytes generalizing p with
  | nil => rfl
  | cons b bytes ih => exact (ih _).trans (p.data_meaningful cfg b)

/-- A pixel to an illegal window: nothing is known of the memory, and the pointer moves on. -/
theorem Panel.feed_pixel_refused {cfg : Params} (hd : cfg.Distinct) (c : Half) {p : Panel}
    (hc : p.cmd = some cfg.cmdRamwr) (hh : p.half = none) (hw : p.windowLegal cfg = false) :
    p.feed cfg ((be16 c).map (.byte true)) = p.forget.advance := by
  have hfirst : p.receive cfg (.byte true (hi8 c)) = { p with half := some (hi8 c) } := by
    simp [Panel.receive, p.data_ramwr cfg hd _ hc, Panel.pixelByte, hh]
  have hlegal : ({ p with half := some (hi8 c) } : Panel).windowLegal cfg = false := hw
  have hnone : ({ p with half := none } : Panel) = p := by cases p; simp_all
  simp only [be16, List.map_cons, List.map_nil, Panel.feed_cons, Panel.feed_nil, hfirst]
  simp [Panel.receive, Panel.data_ramwr cfg hd _ { p with half := some (hi8 c) } hc, Panel.pixelByte, hlegal, hnone]

theorem Panel.advance_eq (p : Panel) : p.advance = { p with col := p.advance.col, row := p.advance.row } := by
  unfold Panel.advance
  split <;> rfl

/-- Pixels to an illegal window leave nothing known of the memory. -/
theorem Panel.feed_pixels_refused {cfg : Params} (hd : cfg.Distinct) (px : List Half) {p : Panel}
    (hc : p.cmd = some cfg.cmdRamwr) (hh : p.half = none) (hw : p.windowLegal cfg = false)
    (hne : px ≠ [] ∨ p.fm = []) : (p.feed cfg ((px.flatMap be16).map (.byte true))).fm = [] := by
  induction px generalizing p with
  | nil => exact hne.resolve_left (not_not_intro rfl)
  | cons c px ih =>
    rw [Panel.feed_pixels_cons, Panel.feed_pixel_refused hd c hc hh hw, Panel.advance_eq]
    exact ih hc hh hw (.inr rfl)

/-! ### What a region leaves of a panel -/

theorem cell_lt {w h i j : Nat} (hi : i < w) (hj : j < h) : j * w + i < w * h := by
  calc j * w + i < (j + 1) * w := by rw [Nat.succ_mul]; omega
    _ ≤ h * w := Nat.mul_le_mul_right w hj
    _ = w * h := Nat.mul_comm h w

/-- The cell `(col, row)` is one of the translated region `(x, y, w, h)` (20_memory R58, R60). -/
def InRegion (s : State) (x y : Int) (w h : Nat) (col row : Half) : Prop :=
  x + s.ox.toNat ≤ col.toNat ∧ (col.toNat : Int) < x + s.ox.toNat + w ∧
    y + s.oy.toNat ≤ row.toNat ∧ (row.toNat : Int) < y + s.oy.toNat + h

/-- The panel `q` is what the panel of `s` becomes by writing the pixels `px` to the region `(x, y, w, h)`: a sink with a
meaning, the pixels row by row and every other as before, or nothing known where the region leaves the memory (R159,
20_memory R64, R66). -/
structure Paints (s : State) (x y : Int) (w h : Nat) (px : List Half) (q : Panel) : Prop where
  meaningful : q.meaningful = true
  cell : CornerInMemory s (x + w - 1) (y + h - 1) → ∀ i j, i < w → j < h →
    q.pixel (tx s (x + i)) (ty s (y + j)) = px[j * w + i]?
  outside : CornerInMemory s (x + w - 1) (y + h - 1) → ∀ col row, ¬ InRegion s x y w h col row →
    q.pixel col row = s.panel.pixel col row
  refused : ¬ CornerInMemory s (x + w - 1) (y + h - 1) → ∀ col row, q.pixel col row = none

/-- The panel with the window of a region in its window registers, by the two address commands. -/
def windowed (s : State) (x y : Int) (w h : Nat) : Panel :=
  { s.panel with
    cmd := some s.params.cmdRaset, args := be16 (ty s y) ++ be16 (ty s (y + h - 1)), half := none
    xs := tx s x, xe := tx s (x + w - 1), ys := ty s y, ye := ty s (y + h - 1) }

/-- The address commands of a blit set the window, then comes the memory write of its payload. -/
theorem feed_blitEvents {s : State} (hd : s.params.Distinct) (x y : Int) (w h : Nat) (payload : List Byte) :
    s.panel.feed s.params ((blitEvents s.params s.ox s.oy x y w h payload).flatMap Event.onWire) =
      (windowed s x y w h).feed s.params (.byte false s.params.cmdRamwr :: payload.map (.byte true)) := by
  have hitems : (blitEvents s.params s.ox s.oy x y w h payload).flatMap Event.onWire =
      .byte false s.params.cmdCaset :: (be16 (tx s x) ++ be16 (tx s (x + w - 1))).map (.byte true) ++
      .byte false s.params.cmdRaset :: (be16 (ty s y) ++ be16 (ty s (y + h - 1))).map (.byte true) ++
      .byte false s.params.cmdRamwr :: payload.map (.byte true) := flatMap_blitEvents ..
  obtain ⟨hcolumns, -⟩ := addressCommandsLoadTheWindow s.params s.panel (tx s x) (tx s (x + w - 1)) hd
  rw [hitems, Panel.feed_append, Panel.feed_append, hcolumns,
    (addressCommandsLoadTheWindow s.params _ (ty s y) (ty s (y + h - 1)) hd).2]
  rfl

section
variable {s : State} {x y : Int} {w h : Nat} (hf : FrameInv s) (hc : Contract s x y (x + w - 1) (y + h - 1))
include hf hc

/-- Inside the Frame Window the start and the end of a region are translated without loss (20_memory R58). -/
theorem region_translated :
    ((tx s x).toNat : Int) = x + s.ox.toNat ∧ ((tx s (x + w - 1)).toNat : Int) = x + w - 1 + s.ox.toNat ∧
    ((ty s y).toNat : Int) = y + s.oy.toNat ∧ ((ty s (y + h - 1)).toNat : Int) = y + h - 1 + s.oy.toNat := by
  obtain ⟨hx0, hx, hx1, hy0, hy, hy1⟩ := hc
  obtain ⟨hxs, hys, -⟩ := translationInsideTheFrame s x y hf hx0 (by omega) hy0 (by omega)
  obtain ⟨hxe, hye, -⟩ := translationInsideTheFrame s (x + w - 1) (y + h - 1) hf (by omega) hx1 (by omega) hy1
  exact ⟨hxs, hxe, hys, hye⟩

/-- The window's far corner decides whether the sink accepts the memory write (20_memory R64). -/
theorem windowed_windowLegal_iff :
    (windowed s x y w h).windowLegal s.params = true ↔ CornerInMemory s (x + w - 1) (y + h - 1) := by
  obtain ⟨hxs, hxe, hys, hye⟩ := region_translated hf hc
  obtain ⟨-, hx, -, -, hy, -⟩ := hc
  rw [Panel.windowLegal_iff]
  simp only [windowed, CornerInMemory]
  omega

theorem windowed_inside_iff (col row : Half) :
    ((windowed s x y w h).xs.toNat ≤ col.toNat ∧ col.toNat ≤ (windowed s x y w h).xe.toNat ∧
      (windowed s x y w h).ys.toNat ≤ row.toNat ∧ row.toNat ≤ (windowed s x y w h).ye.toNat) ↔
    InRegion s x y w h col row := by
  obtain ⟨hxs, hxe, hys, hye⟩ := region_translated hf hc
  simp only [windowed, InRegion]
  omega

theorem windowed_window (hw : 0 < w) (hh : 0 < h) : (windowed s x y w h).Window w h := by
  obtain ⟨hxs, hxe, hys, hye⟩ := region_translated hf hc
  refine ⟨?_, ?_, hw, hh⟩ <;> simp only [windowed] <;> omega

/-- THE PAINTING of a region: the transfers of a blit paint its pixels, or are refused as a whole. -/
theorem paints_blitEvents (hw : 0 < w) (hh : 0 < h) (hd : s.params.Distinct) (hm : s.panel.meaningful = true)
    {px : List Half} (hlen : px.length = w * h) : Paints s x y w h px
      (s.panel.feed s.params ((blitEvents s.params s.ox s.oy x y w h (px.flatMap be16)).flatMap Event.onWire)) := by
  rw [feed_blitEvents hd]
  have hlegal := windowed_windowLegal_iff hf hc
  have hpaints (hcorner) := Panel.memoryWrite_paints (p := windowed s x y w h) hd hm (hlegal.2 hcorner)
    (windowed_window hf hc hw hh) hlen
  constructor
  case meaningful =>
    rw [Panel.feed_cons, Panel.feed_data_meaningful, Panel.receive_ramwr hd]
    exact hm
  case cell =>
    intro hcorner i j hi hj
    obtain ⟨_, rfl, -, -, -, -, hcell, -⟩ := hpaints hcorner
    rw [tx_add_nat, ty_add_nat]
    exact hcell i j hi hj
  case outside =>
    intro hcorner col row hout
    obtain ⟨_, rfl, -, -, -, -, -, houtside⟩ := hpaints hcorner
    exact houtside col row (mt (windowed_inside_iff hf hc col row).1 hout)
  case refused =>
    intro hcorner
    have hne : px ≠ [] := List.ne_nil_of_length_pos (hlen ▸ Nat.mul_pos hw hh)
    have hillegal := Bool.eq_false_iff.2 (mt hlegal.1 hcorner)
    refine Panel.pixel_of_fm_nil ?_
    rw [Panel.feed_cons, Panel.receive_ramwr hd]
    exact Panel.feed_pixels_refused hd px rfl rfl hillegal (.inl hne)

/-- A cell of a region is the translation of one of its positions. -/
theorem InRegion.coords {col row : Half} (hin : InRegion s x y w h col row) :
    ∃ i j : Nat, i < w ∧ j < h ∧ col = tx s (x + i) ∧ row = ty s (y + j) := by
  obtain ⟨hcol0, hcol1, hrow0, hrow1⟩ := hin
  obtain ⟨hx0, -, hx1, hy0, -, hy1⟩ := hc
  refine ⟨(col.toNat - (x + s.ox.toNat)).toNat, (row.toNat - (y + s.oy.toNat)).toNat, by omega, by omega, ?_⟩
  obtain ⟨htx, hty, -⟩ := translationInsideTheFrame s (x + (col.toNat - (x + s.ox.toNat)).toNat)
    (y + (row.toNat - (y + s.oy.toNat)).toNat) hf (by omega) (by omega) (by omega) (by omega)
  exact ⟨BitVec.eq_of_toNat_eq (by omega), BitVec.eq_of_toNat_eq (by omega)⟩

/-- A region written with one colour has it in every cell, and no other pixel has changed. -/
theorem Paints.pixel_uniform {c : Half} {q : Panel} (hq : Paints s x y w h (List.replicate (w * h) c) q)
    (hcorner : CornerInMemory s (x + w - 1) (y + h - 1)) {col row : Half} {P : Prop} [Decidable P]
    (hP : P ↔ InRegion s x y w h col row) : q.pixel col row = if P then some c else s.panel.pixel col row := by
  split
  · obtain ⟨i, j, hi, hj, rfl, rfl⟩ := InRegion.coords hf hc (hP.1 ‹P›)
    rw [hq.cell hcorner i j hi hj, List.getElem?_replicate, if_pos (cell_lt hi hj)]
  · exact hq.outside hcorner col row (mt hP.2 ‹¬P›)

end

/-! ### The panel once it has received an operation -/

/-- From an empty wire, the panel receives the events of the operation and nothing else. -/
theorem exec_settled_panel {i : Instr} {s : State} {ms : List Stmt} (hi : i.format = .desc128)
    (hsc : script i s = some ms) (hs : s.Accepting) (hwire : s.wire = []) :
    ∃ t, exec i s = .next t ∧
      t.settled.panel = s.panel.feed s.params ((scriptEvents ms s).flatMap Event.onWire) :=
  ⟨_, exec_accepting hi hsc hs, by simp [hwire]⟩

/-- The Frame Window of a mode is never empty (10_state R24). -/
theorem FrameInv.pos {s : State} (h : FrameInv s) : 0 < s.fw.toNat ∧ 0 < s.fh.toNat := by
  unfold FrameInv frameOf at h
  split at h <;> (obtain ⟨-, hfw, -, hfh⟩ := Frame.mk.inj h; rw [hfw, hfh]; decide)

section
variable {s : State} {x y : Int} {w h : Nat} (hd : s.params.Distinct) (hs : s.Accepting) (hf : FrameInv s)
  (hwire : s.wire = []) (hm : s.panel.meaningful = true) (hw : 0 < w) (hh : 0 < h)
  (hc : Contract s x y (x + w - 1) (y + h - 1)) {i : Instr} (hi : i.format = .desc128)
include hd hs hf hwire hm hw hh hc hi

/-- An operation whose pseudocode is BLIT's paints its payload. -/
theorem exec_blitScript_paints {px : List Half} (hlen : px.length = w * h)
    (hsc : script i s = some (blitScript s.params x y w h (px.flatMap be16))) :
    ∃ t, exec i s = .next t ∧ Paints s x y w h px t.settled.panel := by
  obtain ⟨t, he, hpanel⟩ := exec_settled_panel hi hsc hs hwire
  rw [blitScript_events] at hpanel
  exact ⟨t, he, hpanel ▸ paints_blitEvents hf hc hw hh hd hm hlen⟩

/-- An operation whose pseudocode is a fill paints its colour. -/
theorem exec_fill_paints {c : Half} (hsc : script i s = some (fill s.params x y w h c)) :
    ∃ t, exec i s = .next t ∧ Paints s x y w h (List.replicate (w * h) c) t.settled.panel := by
  obtain ⟨t, he, hpanel⟩ := exec_settled_panel hi hsc hs hwire
  rw [fill_events, flatMap_fillEvents] at hpanel
  exact ⟨t, he, hpanel ▸ paints_blitEvents hf hc hw hh hd hm List.length_replicate⟩

end

end Sys2Proof.Machine

/-! The obligations on what the pixel-region operations paint (spec 42_pixel_region R159), settled. -/

namespace Sys2Proof.Machine

/-- Settles O48: either operation is a fill, of its rectangle or of the Frame Window, which is never empty. -/
theorem fillRectAndClearPaintTheirRectangles : Obligations.FillRectAndClearPaintTheirRectangles := by
  unfold Obligations.FillRectAndClearPaintTheirRectangles
  refine ⟨fun x y w h c s hd hs hf hwire hm hw hh hc => ?_, fun c s hd hs hf hwire hm => ?_⟩
  · obtain ⟨t, he, hp⟩ := exec_fill_paints hd hs hf hwire hm hw hh hc (i := .fillRect x y w h c) rfl rfl
    exact ⟨t, he, hp.meaningful, fun hcorner col row => hp.pixel_uniform hf hc hcorner Iff.rfl, hp.refused⟩
  · obtain ⟨hw, hh⟩ := hf.pos
    have hc : Contract s 0 0 (0 + s.fw.toNat - 1) (0 + s.fh.toNat - 1) := by unfold Contract; omega
    obtain ⟨t, he, hp⟩ := exec_fill_paints hd hs hf hwire hm hw hh hc (i := .clear c) rfl rfl
    rw [← zero_add (s.fw.toNat : Int), ← zero_add (s.fh.toNat : Int)]
    refine ⟨t, he, hp.meaningful, fun hcorner col row => hp.pixel_uniform hf hc hcorner ?_, hp.refused⟩
    unfold InRegion
    omega

/-- Settles O49: the payload is the bytes of `w * h` pixels, and BLIT sends them to its region. -/
theorem blitPaintsItsPayload : Obligations.BlitPaintsItsPayload := by
  unfold Obligations.BlitPaintsItsPayload
  intro x y w h len payload s hd hs hf hwire hm hw hh hc hlen hpayload
  obtain ⟨hbytes, hcount⟩ := pixelsOf_flatMap (hpayload.trans hlen)
  have hsc : script (.blit x y w h len payload) s =
      some (blitScript s.params x.toInt y.toInt w.toNat h.toNat ((pixelsOf payload).flatMap be16)) := by
    rw [hbytes]
    exact script_blit hlen x y payload s
  obtain ⟨t, he, hp⟩ := exec_blitScript_paints hd hs hf hwire hm hw hh hc rfl hcount hsc
  refine ⟨t, he, hp.meaningful, fun hcorner => ⟨fun i j hi lo hiw hjh h0 h1 => ?_, hp.outside hcorner⟩, hp.refused⟩
  rw [hp.cell hcorner i j hiw hjh, getElem?_pixelsOf h0 h1]

/-- Settles O50: PIXEL is the blit of one pixel to a region of one cell. -/
theorem pixelPaintsItsPixel : Obligations.PixelPaintsItsPixel := by
  unfold Obligations.PixelPaintsItsPixel
  intro x y c s hd hs hf hwire hm hc
  have hregion : Contract s x.toInt y.toInt (x.toInt + (1 : Nat) - 1) (y.toInt + (1 : Nat) - 1) := by simpa using hc
  have hcorner : CornerInMemory s (x.toInt + (1 : Nat) - 1) (y.toInt + (1 : Nat) - 1) ↔
      CornerInMemory s x.toInt y.toInt := by simp
  obtain ⟨t, he, hp⟩ := exec_blitScript_paints hd hs hf hwire hm Nat.one_pos Nat.one_pos hregion
    (i := .pixel x y c) (px := [c]) rfl rfl (congrArg some (pixelAt_eq_blitScript s.params x.toInt y.toInt c))
  refine ⟨t, he, hp.meaningful, fun h col row => hp.pixel_uniform hf hregion (hcorner.2 h) ?_,
    fun h => hp.refused (mt hcorner.1 h)⟩
  unfold InRegion
  omega

end Sys2Proof.Machine

/-! The rules of LINE (spec 43_rasterizer R170, R172): every line is a run of the loop from one of its ends to the other,
and the loop's error term is its deviation from the ideal line. -/

namespace Sys2Proof.Machine

/-! ### A line and its ends (R170) -/

@[simp] theorem linePoint_true (x y : Int) : linePoint true x y = (y, x) := rfl

@[simp] theorem linePoint_false (x y : Int) : linePoint false x y = (x, y) := rfl

/-- `lineOrdered` does not see which end comes first, unless the ends differ in the second coordinate alone. -/
theorem lineOrdered_comm (steep : Bool) {x0 y0 x1 y1 : Int} (h : x1 = x0 → y1 = y0) :
    lineOrdered steep x1 y1 x0 y0 = lineOrdered steep x0 y0 x1 y1 := by
  unfold lineOrdered
  rcases lt_trichotomy x0 x1 with hlt | heq | hgt
  · rw [if_pos hlt, if_neg hlt.asymm]
  · rw [heq, h heq.symm]
  · rw [if_neg hgt.asymm, if_pos hgt]

/-- Along its longer side a line has no length only if it has none along the other. -/
theorem eq_of_abs_sub_le {x0 y0 x1 y1 : Int} (h : |y1 - y0| ≤ |x1 - x0|) (hx : x1 = x0) : y1 = y0 := by
  rw [hx, sub_self, abs_zero, abs_nonpos_iff] at h
  exact sub_eq_zero.1 h

theorem linePoints_comm (x0 y0 x1 y1 : Int) : linePoints x1 y1 x0 y0 = linePoints x0 y0 x1 y1 := by
  unfold linePoints
  rw [abs_sub_comm y0, abs_sub_comm x0]
  split
  · exact lineOrdered_comm true (eq_of_abs_sub_le (le_of_lt ‹_›))
  · exact lineOrdered_comm false (eq_of_abs_sub_le (not_lt.1 ‹_›))

/-- The line between `(x0, y0)` and `(x1, y1)` runs from `(a, b)` to `(c, d)` in running coordinates: the first
coordinate rises, by at least as much as the second changes. -/
structure LineEnds (x0 y0 x1 y1 : Int) (steep : Bool) (a b c d : Int) : Prop where
  rising : a ≤ c
  shallow : |d - b| ≤ c - a
  steep_iff : steep = true ↔ |x1 - x0| < |y1 - y0|
  ends : (linePoint steep a b = (x0, y0) ∧ linePoint steep c d = (x1, y1)) ∨
    (linePoint steep a b = (x1, y1) ∧ linePoint steep c d = (x0, y0))

/-- A line whose ends come in order is its own run. -/
theorem lineEnds_of_le {x0 y0 x1 y1 a b c d : Int} {steep : Bool} (hsteep : steep = true ↔ |x1 - x0| < |y1 - y0|)
    (ha : linePoint steep a b = (x0, y0)) (hc : linePoint steep c d = (x1, y1)) (hle : a ≤ c) :
    LineEnds x0 y0 x1 y1 steep a b c d where
  rising := hle
  steep_iff := hsteep
  ends := .inl ⟨ha, hc⟩
  shallow := by
    rw [← abs_of_nonneg (sub_nonneg.2 hle)]
    cases steep with
    | true => cases ha; cases hc; exact le_of_lt (hsteep.1 rfl)
    | false => cases ha; cases hc; exact not_lt.1 (mt hsteep.2 Bool.false_ne_true)

theorem LineEnds.swap {x0 y0 x1 y1 a b c d : Int} {steep : Bool} (h : LineEnds x1 y1 x0 y0 steep a b c d) :
    LineEnds x0 y0 x1 y1 steep a b c d where
  rising := h.rising
  shallow := h.shallow
  steep_iff := by rw [h.steep_iff, abs_sub_comm x0, abs_sub_comm y0]
  ends := h.ends.symm

/-- Every line is the run between its ends in one order. -/
theorem exists_lineEnds (x0 y0 x1 y1 : Int) : ∃ steep a b c d,
    LineEnds x0 y0 x1 y1 steep a b c d ∧ linePoints x0 y0 x1 y1 = lineRun steep a b c d := by
  wlog hle : |x1 - x0| < |y1 - y0| ∧ y0 ≤ y1 ∨ ¬ |x1 - x0| < |y1 - y0| ∧ x0 ≤ x1 generalizing x0 y0 x1 y1
  · obtain ⟨steep, a, b, c, d, h, hrun⟩ := this x1 y1 x0 y0 (by rw [abs_sub_comm x0, abs_sub_comm y0]; omega)
    exact ⟨steep, a, b, c, d, h.swap, linePoints_comm x0 y0 x1 y1 ▸ hrun⟩
  rcases hle with ⟨hsteep, hle⟩ | ⟨hflat, hle⟩
  · exact ⟨true, y0, x0, y1, x1, lineEnds_of_le (iff_of_true rfl hsteep) rfl rfl hle,
      by rw [linePoints, if_pos hsteep, lineOrdered, if_neg (not_lt.2 hle)]⟩
  · exact ⟨false, x0, y0, x1, y1, lineEnds_of_le (iff_of_false Bool.false_ne_true hflat) rfl rfl hle,
      by rw [linePoints, if_neg hflat, lineOrdered, if_neg (not_lt.2 hle)]⟩

section
variable {x0 y0 x1 y1 a b c d : Int} {steep : Bool} (h : LineEnds x0 y0 x1 y1 steep a b c d)
include h

/-- The corners of the bounding box, lowest and highest coordinates, come first and last in the run's coordinates. -/
theorem LineEnds.box : linePoint steep a (min b d) = (min x0 x1, min y0 y1) ∧
    linePoint steep c (max b d) = (max x0 x1, max y0 y1) := by
  have hac := h.rising
  have hends := h.ends
  cases steep with
  | true =>
    simp only [linePoint_true, Prod.mk.injEq] at hends ⊢
    omega
  | false =>
    simp only [linePoint_false, Prod.mk.injEq] at hends ⊢
    omega

/-- The run is as long as the longer side of the line. -/
theorem LineEnds.length_eq : max |x1 - x0| |y1 - y0| = c - a := by
  obtain ⟨hlow, hhigh⟩ := h.box
  cases steep with
  | true =>
    rw [max_eq_right (le_of_lt (h.steep_iff.1 rfl)), ← max_sub_min_eq_abs]
    exact (congrArg₂ (·.2 - ·.2) hhigh hlow).symm
  | false =>
    rw [max_eq_left (not_lt.1 (mt h.steep_iff.2 Bool.false_ne_true)), ← max_sub_min_eq_abs]
    exact (congrArg₂ (·.1 - ·.1) hhigh hlow).symm

end

/-! ### The points of a run -/

/-- The run of R170 steps its second coordinate towards the end. -/
theorem abs_sub_mul_ystep (b d : Int) : |d - b| * (if b < d then 1 else -1) = d - b := by
  split
  · rw [abs_of_nonneg (by omega), mul_one]
  · rw [abs_of_nonpos (by omega), mul_neg_one, neg_neg]

/-- How far `p` is off the line through two points, along the one axis or the other, times its length along the other
axis. -/
def lineDeviation (x0 y0 x1 y1 : Int) (p : Point) : Int := (p.2 - y0) * (x1 - x0) - (p.1 - x0) * (y1 - y0)

/-- Neither the order of the ends nor that of the axes changes how far a point is off the line. -/
theorem LineEnds.abs_deviation {x0 y0 x1 y1 a b c d : Int} {steep : Bool} (h : LineEnds x0 y0 x1 y1 steep a b c d)
    (u v : Int) :
    |lineDeviation x0 y0 x1 y1 (linePoint steep u v)| = |lineDeviation a b c d (u, v)| := by
  rw [abs_eq_abs]
  unfold lineDeviation
  cases steep with
  | true =>
    rcases h.ends with ⟨ha, hc⟩ | ⟨ha, hc⟩ <;> cases ha <;> cases hc
    · exact .inr (by simp only [linePoint_true]; ring)
    · exact .inl (by simp only [linePoint_true]; ring)
  | false =>
    rcases h.ends with ⟨ha, hc⟩ | ⟨ha, hc⟩ <;> cases ha <;> cases hc
    · exact .inl (by simp only [linePoint_false])
    · exact .inr (by simp only [linePoint_false]; ring)

/-- After `k` turns and `m` steps the deviation is the balance of the two, whichever way the run steps. -/
theorem abs_deviation_run (a b c d k m : Int) :
    |lineDeviation a b c d (a + k, b + m * (if b < d then 1 else -1))| = |m * (c - a) - k * (|d - b|)| := by
  have hdev : lineDeviation a b c d (a + k, b + m * (if b < d then 1 else -1)) =
      (m * (c - a) - k * |d - b|) * (if b < d then 1 else -1) := by
    unfold lineDeviation
    linear_combination k * abs_sub_mul_ystep b d
  rw [hdev, abs_mul]
  split
  · rw [abs_one, mul_one]
  · rw [abs_neg, abs_one, mul_one]

/-- The loop's running coordinate rises by one a turn. -/
theorem lineLoop_getElem? {steep : Bool} {dx dy ystep x y err : Int} {n k : Nat} {p : Point}
    (h : (lineLoop steep dx dy ystep n x y err)[k]? = some p) : ∃ v, p = linePoint steep (x + k) v := by
  induction n generalizing k x y err with
  | zero => cases h
  | succ n ih =>
    rw [lineLoop] at h
    cases k with
    | zero => exact ⟨y, by simpa [linePoint] using h.symm⟩
    | succ k =>
      rw [List.getElem?_cons_succ] at h
      rw [show x + ((k + 1 : Nat) : Int) = x + 1 + k by push_cast; ring]
      split at h
      · exact ih h
      · exact ih h

/-- The error that the run of R170 starts with is one that its loop keeps to. -/
theorem half_lt_max {dx : Int} (hdx : 0 ≤ dx) : 0 ≤ dx / 2 ∧ dx / 2 < max dx 1 := by omega

section
variable {dx dy k m e : Int} (hdx : 0 ≤ dx) (hdy : 0 ≤ dy)
include hdx

/-- The error term of R170 keeps the loop within half a row of the line. -/
theorem LinePoint.deviation_le {n : Nat} (h : LinePoint dx dy n (dx / 2) k m e) : 2 * |m * dx - k * dy| ≤ dx := by
  obtain ⟨-, -, -, he0, he1, hbalance, -⟩ := h
  rw [show m * dx - k * dy = e - dx / 2 by linarith]
  have : |e - dx / 2| ≤ dx / 2 := abs_le.2 ⟨by omega, by omega⟩
  omega

include hdy

/-- The loop steps no further than the second coordinate of the end. -/
theorem LinePoint.rows_le (h : LinePoint dx dy (dx.toNat + 1) (dx / 2) k m e) : m ≤ dy := by
  obtain ⟨-, hk, -, -, he1, hbalance, hdeg⟩ := h
  rcases hdx.eq_or_lt with h0 | hpos
  · rw [hdeg h0.symm]; exact hdy
  · by_contra hlt
    have hkdy : k * dy ≤ dx * dy := mul_le_mul_of_nonneg_right (by omega) hdy
    have hm : (dy + 1) * dx ≤ m * dx := mul_le_mul_of_nonneg_right (by omega) hdx
    have : e < dx + dx / 2 := by omega
    linarith

/-- With every turn made, the loop is at the second coordinate of the end. -/
theorem LinePoint.rows_eq (hle : dy ≤ dx) (h : LinePoint dx dy (dx.toNat + 1) (dx / 2) dx.toNat m e) : m = dy := by
  refine le_antisymm (h.rows_le hdx hdy) ?_
  obtain ⟨-, -, hm0, he0, -, hbalance, -⟩ := h
  by_contra hlt
  have hm : m * dx ≤ (dy - 1) * dx := mul_le_mul_of_nonneg_right (by omega) hdx
  have : dx / 2 < dx := by omega
  rw [Int.toNat_of_nonneg hdx] at hbalance
  linarith

end

section
variable {a b c d : Int} (steep : Bool) (hac : a ≤ c) (hbd : |d - b| ≤ c - a)

@[simp] theorem length_lineRun : (lineRun steep a b c d).length = (c - a).toNat + 1 := length_lineLoop ..

theorem head?_lineRun : (lineRun steep a b c d).head? = some (linePoint steep a b) := rfl

include hac hbd

theorem getLast?_lineRun : (lineRun steep a b c d).getLast? = some (linePoint steep c d) := by
  have hdx : 0 ≤ c - a := by omega
  obtain ⟨m, e, h, hlast⟩ := lineLoop_getLast steep (c - a) |d - b| (if b < d then 1 else -1) (c - a).toNat a b
    ((c - a) / 2) (abs_nonneg _) hbd (half_lt_max hdx).1 (half_lt_max hdx).2
  rw [lineRun, hlast, h.rows_eq hdx (abs_nonneg _) hbd, abs_sub_mul_ystep, Int.toNat_of_nonneg hdx]
  congr 2 <;> ring

/-- A point of a run is inside the box of its ends, and off the line by at most half a pixel. -/
theorem lineRun_mem {p : Point} (hp : p ∈ lineRun steep a b c d) : ∃ u v, p = linePoint steep u v ∧
    a ≤ u ∧ u ≤ c ∧ min b d ≤ v ∧ v ≤ max b d ∧ 2 * |lineDeviation a b c d (u, v)| ≤ c - a := by
  have hdx : 0 ≤ c - a := by omega
  obtain ⟨k, m, e, h, rfl⟩ := lineLoop_mem _ _ _ _ _ _ _ _ (abs_nonneg _) hbd (half_lt_max hdx).1
    (half_lt_max hdx).2 p hp
  have hm := h.rows_le hdx (abs_nonneg _)
  have hdev := h.deviation_le hdx
  obtain ⟨hk0, hk1, hm0, -⟩ := h
  have hbox : min b d ≤ b + m * (if b < d then 1 else -1) ∧ b + m * (if b < d then 1 else -1) ≤ max b d := by
    have := abs_cases (d - b)
    split <;> omega
  exact ⟨_, _, rfl, by omega, by omega, hbox.1, hbox.2, by rwa [abs_deviation_run]⟩

end

end Sys2Proof.Machine

/-! The rules of CIRCLE (spec 43_rasterizer R174, R175): the turns of the loop as a function of the running x and y,
how near the circle they stay, and the points of the circle, eight with the same offsets at a time. -/

namespace Sys2Proof.Machine

/-! ### The turns of a circle (R174) -/

/-- The error term of R174 as a function of the running x and y: its sign says on which side of the circle the midpoint
between the next two pixels lies. -/
def midpointError (r x y : Nat) : Int := (x + 1) * (x + 1) + y * y - y - r * r

theorem midpointError_succ (r x y : Nat) : midpointError r (x + 1) y = midpointError r x y + (2 * x + 1 + 2) := by
  unfold midpointError
  push_cast
  ring

theorem midpointError_succ_pred (r x y : Nat) :
    midpointError r (x + 1) y = midpointError r x (y + 1) + (-2 * (y + 1 : Nat) + 2) + (2 * x + 1 + 2) := by
  unfold midpointError
  push_cast
  ring

/-- The running y after a turn of R174. -/
def nextRow (r x y : Nat) : Nat := if 0 ≤ midpointError r x y then y - 1 else y

/-- The running y after each of at most `n` turns. -/
def circleRows (r : Nat) : Nat → Nat → Nat → List Nat
  | 0, _, _ => []
  | n + 1, x, y => if x < y then nextRow r x y :: circleRows r n (x + 1) (nextRow r x y) else []

/-- The loop of R174 keeps its three error terms in step with x and y, and plots its new x and y each turn. -/
theorem circleLoop_eq_rows (xc yc : Int) (r n x y : Nat) :
    circleLoop xc yc n (midpointError r x y) (2 * x + 1) (-2 * y) x y =
      ((circleRows r n x y).zipIdx x).flatMap fun t => octantPoints xc yc (t.2 + 1) t.1 := by
  induction n generalizing x y with
  | zero => rfl
  | succ n ih =>
    rw [circleLoop, circleRows]
    by_cases hxy : x < y
    · rw [if_pos hxy, if_pos (Int.ofNat_lt.2 hxy), List.zipIdx_cons, List.flatMap_cons, ← ih, nextRow]
      by_cases hf : 0 ≤ midpointError r x y
      · obtain ⟨y, rfl⟩ : ∃ z, y = z + 1 := ⟨y - 1, by omega⟩
        rw [if_pos hf, if_pos hf, Nat.add_sub_cancel, midpointError_succ_pred]
        push_cast
        ring_nf
      · rw [if_neg hf, if_neg hf, midpointError_succ]
        push_cast
        ring_nf
    · rw [if_neg hxy, if_neg (mt Int.ofNat_lt.1 hxy)]
      rfl

theorem circlePoints_eq_rows (xc yc : Int) (r : Nat) :
    circlePoints xc yc r = [(xc, yc + r), (xc, yc - r), (xc + r, yc), (xc - r, yc)] ++
      (circleRows r r 0 r).zipIdx.flatMap fun t => octantPoints xc yc (t.2 + 1) t.1 := by
  rw [circlePoints, ← circleLoop_eq_rows, midpointError]
  congr 2
  push_cast
  ring

theorem length_circleRows_le (r n x y : Nat) : (circleRows r n x y).length ≤ n := by
  induction n generalizing x y with
  | zero => exact le_refl _
  | succ n ih =>
    rw [circleRows]
    split
    · exact Nat.succ_le_succ (ih _ _)
    · exact Nat.zero_le _

theorem nextRow_le (r x y : Nat) : nextRow r x y ≤ y := by
  unfold nextRow
  split <;> omega

/-- Given turns enough, another turn comes exactly while x is below y. -/
theorem circleRows_turn_iff {r n x y : Nat} (h : y ≤ x + n) {k z : Nat}
    (hz : (y :: circleRows r n x y)[k]? = some z) : k < (circleRows r n x y).length ↔ x + k < z := by
  induction n generalizing x y k with
  | zero =>
    obtain ⟨rfl, rfl⟩ : k = 0 ∧ y = z := by simpa [circleRows, List.getElem?_singleton] using hz
    simp only [circleRows, List.length_nil]
    omega
  | succ n ih =>
    rw [circleRows] at hz ⊢
    by_cases hxy : x < y
    · rw [if_pos hxy] at hz ⊢
      cases k with
      | zero => cases hz; simpa using hxy
      | succ k =>
        have := nextRow_le r x y
        rw [List.length_cons, Nat.succ_lt_succ_iff, ih (by omega) hz]
        omega
    · rw [if_neg hxy] at hz ⊢
      obtain ⟨rfl, rfl⟩ : k = 0 ∧ y = z := by simpa [List.getElem?_singleton] using hz
      simp only [List.length_nil]
      omega

/-- Within half a pixel of the circle of radius `r` (R174). -/
structure NearCircle (r : Nat) (x y : Int) : Prop where
  upper : x * x + y * y ≤ r * r + r
  lower : 0 < r → (r * r - r : Int) < x * x + y * y

/-- A turn of R174 stays within half a pixel of the circle. -/
theorem NearCircle.turn {r x y : Nat} (h : NearCircle r x y) (hyr : y ≤ r) (hxy : x < y) :
    NearCircle r ((x : Int) + 1) (nextRow r x y) := by
  obtain ⟨hupper, hlower⟩ := h
  unfold nextRow
  split
  · rename_i hf
    unfold midpointError at hf
    obtain ⟨y, rfl⟩ : ∃ z, y = z + 1 := ⟨y - 1, by omega⟩
    push_cast at *
    exact ⟨by linarith, fun _ => by linarith⟩
  · rename_i hf
    unfold midpointError at hf
    exact ⟨by linarith, fun hr => by linarith [hlower hr]⟩

theorem nearCircle_circleRows {r n x y : Nat} (h : NearCircle r x y) (hyr : y ≤ r) {t : Nat × Nat}
    (ht : t ∈ (circleRows r n x y).zipIdx x) : NearCircle r ((t.2 : Int) + 1) t.1 := by
  induction n generalizing x y with
  | zero => cases ht
  | succ n ih =>
    rw [circleRows] at ht
    split at ht
    · rw [List.zipIdx_cons, List.mem_cons] at ht
      have hturn := h.turn hyr ‹x < y›
      rcases ht with rfl | ht
      · exact hturn
      · exact ih (by exact_mod_cast hturn) ((nextRow_le r x y).trans hyr) ht
    · cases ht

/-! ### The points of a circle (R175) -/

/-- The eight points of a turn are all that have these distances from the centre along the axes, in either order. -/
theorem mem_octantPoints {xc yc x y : Int} {p : Point} : p ∈ octantPoints xc yc x y ↔
    (|p.1 - xc| = |x| ∧ |p.2 - yc| = |y|) ∨ (|p.1 - xc| = |y| ∧ |p.2 - yc| = |x|) := by
  simp only [octantPoints, List.mem_cons, List.not_mem_nil, or_false, Prod.ext_iff, abs_eq_abs,
    sub_eq_iff_eq_add', ← sub_eq_add_neg, and_or_left]
  simp only [or_and_right, or_assoc]

/-- The seeds are a turn as well, with every point in it twice; the others are those of the rows. -/
theorem mem_circlePoints {xc yc : Int} {r : Nat} {p : Point} : p ∈ circlePoints xc yc r ↔
    p ∈ octantPoints xc yc 0 r ∨ ∃ t ∈ (circleRows r r 0 r).zipIdx, p ∈ octantPoints xc yc (t.2 + 1) t.1 := by
  rw [circlePoints_eq_rows, List.mem_append, List.mem_flatMap]
  apply or_congr_left
  simp only [octantPoints, List.mem_cons, List.not_mem_nil, or_false, add_zero, sub_zero]
  tauto

theorem nearCircle_seed (r : Nat) : NearCircle r 0 r := ⟨by simp, fun hr => by push_cast; omega⟩

/-- Every point of a circle is one of eight with the same offsets from the centre, all of them points of the circle, and
these offsets are within half a pixel of it. -/
theorem octant_of_mem_circlePoints {xc yc : Int} {r : Nat} {p : Point} (hp : p ∈ circlePoints xc yc r) :
    ∃ x y, NearCircle r x y ∧ p ∈ octantPoints xc yc x y ∧ octantPoints xc yc x y ⊆ circlePoints xc yc r := by
  rcases mem_circlePoints.1 hp with hp | ⟨t, ht, hp⟩
  · exact ⟨0, r, nearCircle_seed r, hp, fun q hq => mem_circlePoints.2 (.inl hq)⟩
  · exact ⟨_, _, nearCircle_circleRows (nearCircle_seed r) (le_refl r) ht, hp,
      fun q hq => mem_circlePoints.2 (.inr ⟨t, ht, hq⟩)⟩

/-- All points of a turn have the same distance from the centre. -/
theorem normSq_of_mem_octantPoints {xc yc x y : Int} {p : Point} (hp : p ∈ octantPoints xc yc x y) :
    (p.1 - xc) * (p.1 - xc) + (p.2 - yc) * (p.2 - yc) = x * x + y * y := by
  rw [← abs_mul_abs_self (p.1 - xc), ← abs_mul_abs_self (p.2 - yc), ← abs_mul_abs_self x, ← abs_mul_abs_self y]
  rcases mem_octantPoints.1 hp with ⟨h1, h2⟩ | ⟨h1, h2⟩
  · rw [h1, h2]
  · rw [h1, h2, add_comm]

theorem length_circlePoints (xc yc : Int) (r : Nat) :
    (circlePoints xc yc r).length = 4 + 8 * (circleRows r r 0 r).length := by
  rw [circlePoints_eq_rows, List.length_append, List.length_flatMap]
  simp [octantPoints, mul_comm]

end Sys2Proof.Machine

/-! The obligations on the rasterizer (spec 43_rasterizer), settled. -/

namespace Sys2Proof.Machine

/-! ### The operations, every event accepted -/

/-- Settles O25: the pseudocode is one `pixel` for each point. -/
theorem linePlotsItsPoints : Obligations.LinePlotsItsPoints := by
  unfold Obligations.LinePlotsItsPoints
  intro x0 y0 x1 y1 c s hs
  rw [exec_accepting (i := .line x0 y0 x1 y1 c) rfl rfl hs, plot_writes, plot_events]
  rfl

/-- Settles O26: the pseudocode is one `pixel` for each point. -/
theorem circlePlotsItsPoints : Obligations.CirclePlotsItsPoints := by
  unfold Obligations.CirclePlotsItsPoints
  intro xc yc r c s hs
  rw [exec_accepting (i := .circle xc yc r c) rfl rfl hs, plot_writes, plot_events]
  rfl

/-! ### LINE -/

/-- Settles O41: the run has a turn for each running coordinate, and does not see the order of the ends. -/
theorem lineCountAndDirection : Obligations.LineCountAndDirection := by
  unfold Obligations.LineCountAndDirection
  intro x0 y0 x1 y1
  obtain ⟨steep, a, b, c, d, h, hrun⟩ := exists_lineEnds x0 y0 x1 y1
  refine ⟨?_, fun k p hp => ?_, linePoints_comm x0 y0 x1 y1⟩
  · rw [hrun, length_lineRun, h.length_eq, Nat.cast_succ, Int.toNat_of_nonneg (sub_nonneg.2 h.rising)]
  · obtain ⟨v, rfl⟩ := lineLoop_getElem? (hrun ▸ hp)
    have hlow := h.box.1
    cases steep with
    | true =>
      have hsteep := h.steep_iff.1 rfl
      exact ⟨fun hflat => absurd hsteep (not_lt.2 hflat), fun _ => congrArg (fun q : Point => q.2 + k) hlow⟩
    | false =>
      have hflat := mt h.steep_iff.2 Bool.false_ne_true
      exact ⟨fun _ => congrArg (fun q : Point => q.1 + k) hlow, fun hsteep => absurd hsteep hflat⟩

/-- Settles O42: the last turn of the run is at its end, and no turn is outside the box. -/
theorem lineJoinsItsEnds : Obligations.LineJoinsItsEnds := by
  unfold Obligations.LineJoinsItsEnds
  intro x0 y0 x1 y1
  obtain ⟨steep, a, b, c, d, h, hrun⟩ := exists_lineEnds x0 y0 x1 y1
  rw [hrun, head?_lineRun, getLast?_lineRun steep h.rising h.shallow]
  simp only [Option.some.injEq]
  refine ⟨h.ends, fun p hp => ?_⟩
  obtain ⟨u, v, rfl, hu0, hu1, hv0, hv1, -⟩ := lineRun_mem steep h.rising h.shallow hp
  have hbox := h.box
  cases steep with
  | true =>
    simp only [linePoint_true, Prod.mk.injEq] at hbox ⊢
    omega
  | false =>
    simp only [linePoint_false, Prod.mk.injEq] at hbox ⊢
    omega

/-- Settles O43: the loop's error term is the distance from the ideal line. -/
theorem lineHugsTheIdealLine : Obligations.LineHugsTheIdealLine := by
  unfold Obligations.LineHugsTheIdealLine
  intro x0 y0 x1 y1 p hp
  obtain ⟨steep, a, b, c, d, h, hrun⟩ := exists_lineEnds x0 y0 x1 y1
  obtain ⟨u, v, rfl, -, -, -, -, hdev⟩ := lineRun_mem steep h.rising h.shallow (hrun ▸ hp)
  rw [h.length_eq]
  exact (congrArg (2 * ·) (h.abs_deviation u v)).trans_le hdev

/-! ### CIRCLE -/

/-- Settles O44: the rows of the turns are a list of their own, and every offset they plot is near the circle. -/
theorem circleLoopRunsToItsEnd : Obligations.CircleLoopRunsToItsEnd := by
  unfold Obligations.CircleLoopRunsToItsEnd
  refine ⟨fun xc yc r => rfl, fun xc yc r => ⟨circleRows r r 0 r, ?_, fun k y hy => ?_⟩, fun xc yc r p hp => ?_,
    fun xc yc r n hn => ?_, fun xc yc r => ⟨_, length_circleRows_le r r 0 r, length_circlePoints xc yc r⟩,
    fun xc yc => ?_⟩
  · rw [circlePoints_eq_rows]
    rfl
  · rw [circleRows_turn_iff (by omega) hy, zero_add]
  · obtain ⟨x, y, hnear, hp, -⟩ := octant_of_mem_circlePoints hp
    rw [normSq_of_mem_octantPoints hp]
    exact ⟨hnear.upper, hnear.lower⟩
  · obtain ⟨k, rfl⟩ := Nat.exists_eq_add_of_le hn
    exact circleLoop_enough xc yc r k _ _ _ _ _ (by omega)
  · simp only [length_circlePoints]
    decide

/-- Settles O45: the eight points of a turn, and the seeds among them, are closed under the reflections. -/
theorem circleIsSymmetric : Obligations.CircleIsSymmetric := by
  unfold Obligations.CircleIsSymmetric
  intro xc yc r p hp
  obtain ⟨x, y, -, hp, hsub⟩ := octant_of_mem_circlePoints hp
  have hmem := mem_octantPoints.1 hp
  refine ⟨hsub (mem_octantPoints.2 ?_), hsub (mem_octantPoints.2 ?_), hsub (mem_octantPoints.2 ?_)⟩
  · rwa [show 2 * xc - p.1 - xc = xc - p.1 by ring, abs_sub_comm xc]
  · rwa [show 2 * yc - p.2 - yc = yc - p.2 by ring, abs_sub_comm yc]
  · rw [add_sub_cancel_left, add_sub_cancel_left]
    tauto

end Sys2Proof.Machine

/-! The Glyph Packer of 47_surrounding_software: what each pixel of a packed byte is, and the bytes whose bits
all agree. -/

namespace Sys2Proof.Machine

/-- Pixel `k` from the left is chosen by bit `7 - k` (R196). -/
theorem getElem?_packByte (g : Byte) (fg bg : Half) {k : Nat} (hk : k < 8) :
    (packByte g fg bg)[k]? = some (if g.getLsbD (7 - k) then fg else bg) := by
  rw [packByte, List.getElem?_map, List.getElem?_range hk, Option.map_some]

theorem length_packByte (g : Byte) (fg bg : Half) : (packByte g fg bg).length = 8 := by
  rw [packByte, List.length_map, List.length_range]

/-- A byte whose bits all agree is packed into one colour (R199). -/
theorem packByte_eq_replicate {g : Byte} {b : Bool} (h : ∀ j < 8, g.getLsbD j = b) (fg bg : Half) :
    packByte g fg bg = List.replicate 8 (if b then fg else bg) := by
  refine List.ext_getElem? fun k => ?_
  rcases lt_or_ge k 8 with hk | hk
  · rw [getElem?_packByte g fg bg hk, h _ (by omega), List.getElem?_replicate_of_lt hk]
  · rw [List.getElem?_eq_none (by rwa [length_packByte]), List.getElem?_eq_none (by rwa [List.length_replicate])]

/-- Settles O60: the two extremes are the bytes whose bits all agree, the rest is the pixel rule. -/
theorem glyphPackerRoundTrip : Obligations.GlyphPackerRoundTrip := by
  unfold Obligations.GlyphPackerRoundTrip
  exact fun fg bg => ⟨packByte_eq_replicate (b := true) (by decide) fg bg,
    packByte_eq_replicate (b := false) (by decide) fg bg, fun g _ hk => getElem?_packByte g fg bg hk⟩

end Sys2Proof.Machine

/-! The rules of the exceptions (spec 60_exceptions): which descriptors and operands are rejected, what a rejection
leaves, what the fetch makes of an illegal descriptor, and the stop after a transport failure. -/

namespace Sys2Proof

/-- A descriptor rejected by RSV or OP owns no payload, a BLIT with RSV not 0 included (30_encoding R84). -/
theorem Desc.payloadLen_of_error {d : Desc} {rest : List Byte} {e : DecodeError} (hd : decodeDesc d rest = .error e)
    (he : e ≠ .shortPayload) : d.payloadLen = 0 := by
  refine if_neg ?_
  rintro ⟨ho, hr⟩
  exact he (decodeDesc_error_of_listed hr (by simp [Desc.Unlisted, ho]) hd)

end Sys2Proof

namespace Sys2Proof.Machine

/-! ### A rejected operation (R222, R223) -/

/-- An operation that is rejected offers no event, so the environment has no say in it. -/
theorem exec_rejected {i : Instr} {s : State} (hi : i.format = .desc128) (hs : script i s = none) :
    exec i s = .next (rejected i s) := by
  rw [exec_desc i s hi, hs]

theorem modeOperand_of_invalid {a0 : Half} (h : a0.toInt < 0 ∨ 7 < a0.toInt) : modeOperand a0 = none := by
  refine if_neg ?_
  simp only [s16, Config.nModes]
  omega

/-- A BLIT whose LEN is not that of its region runs no pseudocode (42_pixel_region R153). -/
theorem script_blit_mismatch {w h : Half} {len : Word32} (hlen : len.toNat ≠ w.toNat * h.toNat * 2) (x y : Half)
    (payload : List Byte) (s : State) : script (.blit x y w h len payload) s = none :=
  if_pos hlen

/-! ### An illegal descriptor (R226) -/

theorem Mem.readRange_zero (m : Mem) (a : Nat) : m.readRange a 0 = some [] := by rw [Mem.readRange]

/-- 16 bytes at `pc` that are rejected by RSV or OP are fetched as illegal: no payload is waited for. -/
theorem fetchStream_of_illegal {s : State} {head : List Byte} {e : DecodeError}
    (hhead : s.stream.readRange s.pc 16 = some head) (hd : decode head = .error e) (he : e ≠ .shortPayload) :
    fetchStream s = .illegal := by
  obtain ⟨d, -, hparse⟩ := Desc.parse_take head (Mem.length_readRange _ _ _ _ hhead).ge
  have hdesc : decodeDesc d (head.drop 16) = .error e := by simpa [decode, hparse] using hd
  simp [fetchStream, hhead, hparse, Desc.payloadLen_of_error hdesc he, Mem.readRange_zero, hd]

theorem State.Idle.step_illegal {s : State} (h : s.Idle) (hf : fetchStream s = .illegal) :
    step s = .next (s.ended .illegalOp 16) := by
  have hfetch := h.fetch_eq
  obtain ⟨hr, hw, -, -⟩ := h
  simp [step, hr, hw, hfetch, hf, takeIllegal_eq]

/-- Ending an operation writes LAST alone where BUSY is already 0. -/
theorem endStatus_of_not_busy {s : State} (hb : s.busy = false) (c : StatusCode) :
    endStatus c s.status = putLast c.bits s.status := by
  apply BitVec.eq_of_getLsbD_eq
  intro j _
  rw [endStatus, getLsbD_putBit _ _ _ _ (by decide)]
  split
  next hj => simpa [hj, getLsbD_putLast, State.busy] using hb.symm
  next => rfl

/-! ### After a transport failure (R224, R230) -/

theorem fetch_of_fatal {s : State} (hf : s.fatal = true) : fetch s = .stop .fatalStop := if_pos hf

theorem step_of_fatal {s : State} (hr : s.resetRequest = false) (hw : s.wire = []) (hf : s.fatal = true) :
    step s = .fault .fatalStop := by
  simp [step, hr, hw, fetch_of_fatal hf]

end Sys2Proof.Machine

/-! The obligations on the exceptions (spec 60_exceptions), settled. -/

namespace Sys2Proof.Machine

/-- Settles O13: the descriptor announces no payload, so the fetch finds it illegal at once, and BUSY was 0 before. -/
theorem illegalDescriptorIsSkipped : Obligations.IllegalDescriptorIsSkipped := by
  unfold Obligations.IllegalDescriptorIsSkipped
  intro s head hidle hb hhead hd
  have hfetch : fetchStream s = .illegal := by
    rcases hd with hd | hd
    · exact fetchStream_of_illegal hhead hd (by decide)
    · exact fetchStream_of_illegal hhead hd (by decide)
  rw [hidle.step_illegal hfetch, State.ended, endStatus_of_not_busy hb]
  rfl

/-- Settles O34: the operation is cut short at the failed event, with BUSY set since it was accepted. -/
theorem transportFailureStopsTheOperation : Obligations.TransportFailureStopsTheOperation := by
  unfold Obligations.TransportFailureStopsTheOperation
  intro i s u es k e rest hi hu htr hk hc hans
  obtain ⟨ms, m, hex, hev⟩ := exec_ends i s u es k e .fail rest hi hu htr hk (.inr (.inl ⟨rfl, hc⟩)) hans
  refine ⟨_, hex, ?_⟩
  simp [giveUp, hev]

/-- Settles O3: the wire is drained before the fetch, and the fetch looks at FATAL first. -/
theorem fatalIsLeftOnlyByReset : Obligations.FatalIsLeftOnlyByReset := by
  unfold Obligations.FatalIsLeftOnlyByReset
  intro s hf hr
  refine ⟨fun hw => step_of_fatal hr hw hf, fun item rest hw => ⟨s.panel.receive s.params item, ?_⟩⟩
  rw [step_receive hr hw, receive_eq]
  rfl

/-- Settles O18: no mode has this operand, so neither operation has a pseudocode to run. -/
theorem invalidModeIsSkipped : Obligations.InvalidModeIsSkipped := by
  unfold Obligations.InvalidModeIsSkipped
  intro mode s h
  have hnone := modeOperand_of_invalid h
  exact ⟨exec_rejected rfl (by simp [script, hnone]), exec_rejected rfl (by simp [script, hnone])⟩

/-- Settles O21: LEN is compared before any statement of the pseudocode. -/
theorem blitLengthMismatchIsSkipped : Obligations.BlitLengthMismatchIsSkipped := by
  unfold Obligations.BlitLengthMismatchIsSkipped
  exact fun x y w h len payload s hlen => exec_rejected rfl (script_blit_mismatch hlen x y payload s)

end Sys2Proof.Machine

/-! The rules of reset and of bring-up from any state (spec 70_reset_and_hazards): the step that takes the reset input,
and that a software reset gives the sink a meaning, so that a clear of the Frame Window after it paints. -/

namespace Sys2Proof.Machine

/-! ### The reset input (R250) -/

theorem step_of_resetRequest {s : State} (hr : s.resetRequest = true) : step s = .next (blockReset s) := if_pos hr

/-- The registers at reset, as R250 and 10_state R31 list them. -/
theorem blockReset_registers (s : State) : (blockReset s).pc = 0 ∧ (blockReset s).mode = 0#3 ∧
    (blockReset s).ox = 35#16 ∧ (blockReset s).fw = 170#16 ∧ (blockReset s).oy = 0#16 ∧ (blockReset s).fh = 320#16 ∧
    (blockReset s).winXs = 0#16 ∧ (blockReset s).winYs = 0#16 ∧ (blockReset s).winXe = 0#16 ∧
    (blockReset s).winYe = 0#16 ∧ (blockReset s).status = 0x00#8 ∧ (blockReset s).rstOut = false ∧
    (blockReset s).blOut = false ∧ (blockReset s).offered = none := by
  simp [Config.landOx, Config.landW, Config.landOy, Config.landH]

/-! ### The sink after a software reset (20_memory R65, log entry 10) -/

/-- Only a cut on the wire takes the sink's meaning away. -/
theorem Panel.receive_byte_meaningful (cfg : Params) (dc : Bool) (b : Byte) {p : Panel} (hp : p.meaningful = true) :
    (p.receive cfg (.byte dc b)).meaningful = true := by
  cases dc with
  | true => exact (p.data_meaningful cfg b).trans hp
  | false =>
    simp only [Panel.receive]
    split
    · rfl
    · split <;> exact hp

theorem Panel.feed_meaningful {cfg : Params} {items : List WireItem} (hcut : .cut ∉ items) {p : Panel}
    (hp : p.meaningful = true) : (p.feed cfg items).meaningful = true := by
  induction items generalizing p with
  | nil => exact hp
  | cons item items ih =>
    obtain ⟨hitem, hrest⟩ := not_or.1 (List.mem_cons.not.1 hcut)
    cases item with
    | cut => exact absurd rfl hitem
    | byte dc b => exact ih hrest (Panel.receive_byte_meaningful cfg dc b hp)

/-- An accepted event puts bytes on the wire and no cut. -/
theorem cut_notMem_onWire (es : List Event) : .cut ∉ es.flatMap Event.onWire := by
  rw [List.mem_flatMap]
  rintro ⟨e, -, he⟩
  cases e <;> simp [Event.onWire] at he

/-- From the software reset on the sink has a meaning, whatever the panel was before. -/
theorem Panel.feed_softReset_meaningful {cfg : Params} {es : List Event} (hes : .xfer false [cfg.cmdSwreset] ∈ es)
    (p : Panel) : (p.feed cfg (es.flatMap Event.onWire)).meaningful = true := by
  obtain ⟨before, after, rfl⟩ := List.append_of_mem hes
  rw [List.flatMap_append, List.flatMap_cons, Panel.feed_append, Panel.feed_append]
  refine Panel.feed_meaningful (cut_notMem_onWire after) ?_
  simp [Event.onWire, Panel.receive, Panel.softReset]

/-! ### A clear of the Frame Window (R253, 42_pixel_region R158) -/

/-- The whole Frame Window is within the caller's contract. -/
theorem FrameInv.contract_frame {s : State} (hf : FrameInv s) :
    Contract s 0 0 (0 + s.fw.toNat - 1) (0 + s.fh.toNat - 1) := by
  obtain ⟨hw, hh⟩ := hf.pos
  unfold Contract
  omega

/-- A fill of the Frame Window, as the panel receives it: its colour everywhere in the frame, or a refusal. -/
theorem paints_frame {s : State} (hf : FrameInv s) (hd : s.params.Distinct) (hm : s.panel.meaningful = true) (c : Half) :
    Paints s 0 0 s.fw.toNat s.fh.toNat (List.replicate (s.fw.toNat * s.fh.toNat) c)
      (s.panel.feed s.params
        ((fillEvents s.params s.ox s.oy 0 0 s.fw.toNat s.fh.toNat c).flatMap Event.onWire)) := by
  obtain ⟨hw, hh⟩ := hf.pos
  rw [flatMap_fillEvents]
  exact paints_blitEvents hf hf.contract_frame hw hh hd hm List.length_replicate

/-! ### INIT on the wire (41_panel_control R140) -/

/-- INIT ends with the clear of its mode's Frame Window, and the software reset comes before it. -/
theorem initEvents_split (cfg : Params) (m : BitVec 3) : ∃ before : List Event, .xfer false [cfg.cmdSwreset] ∈ before ∧
    initEvents cfg m = before ++
      fillEvents cfg (frameOf m).ox (frameOf m).oy 0 0 (frameOf m).fw.toNat (frameOf m).fh.toNat Config.black :=
  ⟨_, by simp, rfl⟩

/-- What the panel receives of an accepted INIT, whatever was on the wire: it leads to some panel `p` with a meaning, and
then comes the clear of the Frame Window the machine is left with. -/
theorem exec_init_settled {mode : Half} {m : BitVec 3} {s : State} (hmode : modeOperand mode = some m)
    (hs : s.Accepting) : ∃ t, ∃ p : Panel, exec (.init mode) s = .next t ∧ t.params = s.params ∧ FrameInv t ∧
      p.meaningful = true ∧ t.settled.panel = p.feed t.params
        ((fillEvents t.params t.ox t.oy 0 0 t.fw.toNat t.fh.toNat Config.black).flatMap Event.onWire) := by
  obtain ⟨before, hreset, hevents⟩ := initEvents_split s.params m
  refine ⟨_, (s.panel.feed s.params s.wire).feed s.params (before.flatMap Event.onWire),
    exec_init_accepting hmode hs, rfl, ?_, Panel.feed_softReset_meaningful hreset _, ?_⟩
  · simp [FrameInv, broughtUp_eq]
  · simp [broughtUp_eq, hevents, Panel.feed_append]

end Sys2Proof.Machine

/-! The obligations on reset and bring-up (spec 70_reset_and_hazards), settled. -/

namespace Sys2Proof.Machine

/-- Settles O2: the step is `blockReset`, which keeps only what lies outside the block. -/
theorem resetInputRestoresRegisters : Obligations.ResetInputRestoresRegisters := by
  unfold Obligations.ResetInputRestoresRegisters
  intro s hr
  refine ⟨_, step_of_resetRequest hr, ?_⟩
  obtain ⟨hpc, hmode, hox, hfw, hoy, hfh, hxs, hys, hxe, hye, hstatus, hrst, hbl, hoff⟩ := blockReset_registers s
  exact ⟨hpc, hmode, hox, hfw, hoy, hfh, hxs, hys, hxe, hye, hstatus, hrst, hbl, hoff, by simp⟩

/-- Settles O36: the operation is cut short at the event that the reset input meets, and the block is reset. -/
theorem resetAbandonsTheOperation : Obligations.ResetAbandonsTheOperation := by
  unfold Obligations.ResetAbandonsTheOperation
  intro i s u es k e rest hi hu htr hk hans
  obtain ⟨ms, m, hex, hev⟩ := exec_ends i s u es k e .reset rest hi hu htr hk (.inr (.inr rfl)) hans
  exact ⟨_, hex, by simp [giveUp, hev], by simp [giveUp], blockReset_registers _⟩

/-- Settles O51: INIT's clear paints the Frame Window of the new mode, after the software reset gave the sink its
meaning. -/
theorem initLeavesTheFrameBlack : Obligations.InitLeavesTheFrameBlack := by
  unfold Obligations.InitLeavesTheFrameBlack
  intro mode s hd hs h0 h7
  obtain ⟨m, hmode, -⟩ := modeOperand_of_valid h0 h7
  obtain ⟨t, p, he, hparams, hf, hm, hpanel⟩ := exec_init_settled hmode hs
  have hfp : FrameInv { t with panel := p } := hf
  have hp : Paints { t with panel := p } 0 0 t.fw.toNat t.fh.toNat
      (List.replicate (t.fw.toNat * t.fh.toNat) Config.black) t.settled.panel := by
    rw [hpanel]
    exact paints_frame hfp (hparams ▸ hd) hm Config.black
  refine ⟨t, he, hparams, hp.meaningful, ?_⟩
  rw [← zero_add (t.fw.toNat : Int), ← zero_add (t.fh.toNat : Int)]
  refine ⟨fun hcorner col row hcol0 hcol1 hrow0 hrow1 => ?_, hp.refused⟩
  have hin : InRegion { t with panel := p } 0 0 t.fw.toNat t.fh.toNat col row := by
    unfold InRegion
    dsimp only
    omega
  exact (hp.pixel_uniform hfp hfp.contract_frame hcorner (iff_of_true trivial hin)).trans (if_pos trivial)

end Sys2Proof.Machine
